-- ==== Sys2Proof/Word.lean ====
section
/-! DEFINITION. The word types of the block (spec/00_scope.md R6, R7): bytes, 16-bit fields, words, RGB triples. -/

namespace Sys2Proof

/-- A byte, 8 bits (R7). -/
abbrev Byte := BitVec 8

/-- A 16-bit unsigned field of the header (R6). -/
abbrev Half := BitVec 16

/-- A word of the host's register interface (10_state.md R22). -/
abbrev Word := BitVec 32

/-- A 24-bit RGB word by its three components (10_state.md R28, 20_memory.md R63). -/
structure Rgb where
  r : Byte
  g : Byte
  b : Byte
  deriving DecidableEq, Repr

end Sys2Proof
end

