-- ==== Sys2Proof/Config.lean ====
section
/-! DEFINITION. The parameters of spec/00_scope.md R6: the constants the spec fixes, and the four named parameters, which the model
takes as an argument (92_eei_decisions.md D2, D10, D30): they are data the state carries and no step changes, so that a statement
about every state is one about every value of them. Nothing the block computes is left open by the spec, so no constant here is
opaque. -/

namespace Sys2Proof.Config

/-- HEADER_LEN: the fixed header, and the offset image data begins at. -/
def headerLen : Nat := 128

/-- MANUFACTURER_ID. -/
def manufacturerId : Byte := 10

/-- PAL_MARKER. -/
def palMarker : Byte := 12

/-- PAL256_BYTES. -/
def pal256Bytes : Nat := 768

/-- PAL256_ENTRIES. -/
def pal256Entries : Nat := 256

/-- HPAL_ENTRIES. -/
def hpalEntries : Nat := 16

/-- RUN_MASK. -/
def runMask : Byte := 0xC0

/-- PAL_MIN_VERSION. -/
def palMinVersion : Nat := 5

/-- HPAL_MAX_BPP. -/
def hpalMaxBpp : Nat := 4

/-- The two conventions for an exact half in the luma formula (93_implementation_defined.md U6). -/
inductive LumaTie where
  | halfUp
  | halfEven
  deriving DecidableEq, Repr

/-- The named parameters of R6. -/
structure Params where
  /-- ADDR_W: the width of CURSOR, BOUNDARY and FILE_LEN (D2). -/
  addrW : Nat
  /-- LUMA_TIE (D10, 93 U6). -/
  lumaTie : LumaTie
  /-- LINE_CAPACITY: how many bytes the line buffers of one scanline hold together (D30). -/
  lineCapacity : Nat
  /-- PIX_CAPACITY: how many pixels PIX holds (D30). -/
  pixCapacity : Nat
  deriving DecidableEq, Repr

/-- The values R6 gives them; the capacities are "large enough for the field maxima (255 × 65535 bytes; 65536 × 65536 pixels)"
(D30). -/
def Params.standard : Params where
  addrW := 32
  lumaTie := .halfUp
  lineCapacity := 255 * 65535
  pixCapacity := 65536 * 65536

/-- A FILE offset the width ADDR_W can hold (R6; 10_state.md R24). -/
def Params.holdsOffset (p : Params) (a : Nat) : Bool := decide (a < 2 ^ p.addrW)

end Sys2Proof.Config
end

