-- ==== Sys2Proof/Syntax.lean ====
section
/-! DEFINITION. The instructions: one constructor per row of spec/opcode_table.json, in its order, and the three places their
codes stand in (30_encoding.md R90, R102). -/

namespace Sys2Proof

/-- The rows of the opcode table. An operand field the table leaves free is an argument; LITERAL's value is the whole byte
(`value: byte0[7:0]`), so that its two rows share one operand form and `Instr.wf` says which bytes each row holds. -/
inductive Instr where
  /-- LITERAL, first byte `0vvvvvvv` (R92, R171). -/
  | literalLow (value : Byte)
  /-- LITERAL, first byte `10vvvvvv` (R92, R171). -/
  | literalHigh (value : Byte)
  /-- RUN, `11cccccc` then the value byte (R92, R94, R172). -/
  | run (count : BitVec 6) (value : Byte)
  /-- FORMAT.Rgb24, key `p0000001100001000` (R98, R192). -/
  | fmtRgb24 (palPresent : Bool)
  /-- FORMAT.IndexedViaLuma, key `10000000100001000` (R98, R193). -/
  | fmtIndexedViaLuma
  /-- FORMAT.Gray8, key `00000000100001000` (R98, R194). -/
  | fmtGray8
  /-- FORMAT.Fallback, the default row (R98, R195). -/
  | fmtFallback (palPresent : Bool) (numPlanes bpp : Byte)
  /-- START: a CTRL word with bits 1:0 = 01 (R99, R120). -/
  | start (ignored : BitVec 30)
  /-- RESET: a CTRL word with bit 1 = 1 (R99, R121). -/
  | reset (startBit : Bool) (ignored : BitVec 30)
  /-- CTRL.NOP: a CTRL word with bits 1:0 = 00 (R99). -/
  | ctrlNop (ignored : BitVec 30)
  deriving DecidableEq, Repr

/-- Where an instruction's bits stand: a unit of the RLE stream, the pixel-format key, or a word written to CTRL (R102). -/
inductive Code where
  | unit (bytes : List Byte)
  | key (k : BitVec 17)
  | ctrl (w : Word)
  deriving DecidableEq, Repr

/-- Why the decoder reads no instruction. -/
inductive DecodeReject where
  /-- There is no byte. -/
  | noByte
  /-- A run header with no value byte after it (R176). -/
  | truncatedRun
  /-- Bytes stand after the one unit asked for. -/
  | trailingBytes
  deriving DecidableEq, Repr

end Sys2Proof
end

