-- ==== Sys2Proof/WellFormed.lean ====
section
/-! DEFINITION. The well-formed instructions: those some code of the opcode table stands for. -/

namespace Sys2Proof

/-- The plane count and depth of one of the three first rows of the format table, which take a palette or none alike
(30_encoding.md R98). -/
def isRealFormat (numPlanes bpp : Byte) : Bool :=
  bpp == 8 && (numPlanes == 3 || numPlanes == 1)

/-- A LITERAL's byte belongs to its row; a Fallback key is none of the three rows above it (R92, R98, R102). Every other operand
is free over the whole of its field. -/
def Instr.wf : Instr → Bool
  | .literalLow v => v.toNat < 0x80
  | .literalHigh v => 0x80 ≤ v.toNat && v.toNat < 0xC0
  | .run _ _ => true
  | .fmtRgb24 _ => true
  | .fmtIndexedViaLuma => true
  | .fmtGray8 => true
  | .fmtFallback _ np bpp => !isRealFormat np bpp
  | .start _ => true
  | .reset _ _ => true
  | .ctrlNop _ => true

end Sys2Proof
end

