-- ==== Sys2Proof/Decode.lean ====
section
/-! DEFINITION. The decoder, total on any bytes, key or CTRL word, and the encoder (30_encoding.md R92 to R102). -/

namespace Sys2Proof

/-! ## RLE units -/

/-- R93: the top two bits of the byte at CURSOR are both set. -/
def isRunHeader (b : Byte) : Bool := b &&& Config.runMask == Config.runMask

/-- R93: how many bytes a unit has, told by its first byte alone. -/
def unitLength (b : Byte) : Nat := if isRunHeader b then 2 else 1

/-- R94: `count = b[5:0]`. -/
def runCount (b : Byte) : BitVec 6 := b.extractLsb' 0 6

/-- The unit at the head of a byte list, and the bytes after it. -/
def decodeUnit : List Byte → Except DecodeReject (Instr × List Byte)
  | [] => .error .noByte
  | b :: rest =>
    if isRunHeader b then
      match rest with
      | [] => .error .truncatedRun
      | v :: rest' => .ok (.run (runCount b) v, rest')
    else if b &&& 0x80#8 == 0x00#8 then .ok (.literalLow b, rest)
    else .ok (.literalHigh b, rest)

/-! ## The pixel-format key -/

/-- R98: `K = {PAL_PRESENT, HDR_NUM_PLANES, HDR_BPP}`. -/
def formatKey (palPresent : Bool) (numPlanes bpp : Byte) : BitVec 17 :=
  BitVec.ofBool palPresent ++ numPlanes ++ bpp

/-- R98, R102: the rows of the format table in their order, Fallback last. -/
def decodeKey (k : BitVec 17) : Instr :=
  if k &&& 0x0FFFF#17 == 0x00308#17 then .fmtRgb24 (k.getLsbD 16)
  else if k &&& 0x1FFFF#17 == 0x10108#17 then .fmtIndexedViaLuma
  else if k &&& 0x1FFFF#17 == 0x00108#17 then .fmtGray8
  else .fmtFallback (k.getLsbD 16) (k.extractLsb' 8 8) (k.extractLsb' 0 8)

/-! ## CTRL words -/

/-- R99: only bits 1:0 are looked at; RESET wins over START (R25). -/
def decodeCtrl (w : Word) : Instr :=
  if w &&& 0x3#32 == 0x1#32 then .start (w.extractLsb' 2 30)
  else if w &&& 0x2#32 == 0x2#32 then .reset (w.getLsbD 0) (w.extractLsb' 2 30)
  else .ctrlNop (w.extractLsb' 2 30)

/-! ## Every code -/

/-- The instruction a code stands for. -/
def decode : Code → Except DecodeReject Instr
  | .unit bytes =>
    match decodeUnit bytes with
    | .ok (i, []) => .ok i
    | .ok (_, _ :: _) => .error .trailingBytes
    | .error r => .error r
  | .key k => .ok (decodeKey k)
  | .ctrl w => .ok (decodeCtrl w)

/-! ## The encoder -/

/-- The code of an instruction, by the same tables. -/
def encode : Instr → Code
  | .literalLow v => .unit [v]
  | .literalHigh v => .unit [v]
  | .run c v => .unit [0b11#2 ++ c, v]
  | .fmtRgb24 p => .key (formatKey p 3 8)
  | .fmtIndexedViaLuma => .key (formatKey true 1 8)
  | .fmtGray8 => .key (formatKey false 1 8)
  | .fmtFallback p np bpp => .key (formatKey p np bpp)
  | .start ig => .ctrl (ig ++ 0b01#2)
  | .reset st ig => .ctrl (ig ++ 0b1#1 ++ BitVec.ofBool st)
  | .ctrlNop ig => .ctrl (ig ++ 0b00#2)

/-! ## The opcode table's numbering -/

/-- The code that `nbits` bits numbered as spec/opcode_table.json numbers them stand for. The table's rows live in three spaces
and are told apart by their width, as its `encoding` strings give them: 32 bits a CTRL word, 17 bits (24 in whole bytes) a key,
16 bits a RUN, 8 bits the first byte of a unit, its missing value byte being zero; 16 bits whose first byte is no run header are
read as a key, so that a key row given by its mask alone is read too (log 15, DESIGN CHOICE, safe). -/
def tableCode (nbits w : Nat) : Code :=
  let b : Byte := BitVec.ofNat 8 w
  let v : Byte := BitVec.ofNat 8 (w / 256)
  if nbits ≤ 8 then .unit (if isRunHeader b then [b, 0] else [b])
  else if nbits ≤ 16 then (if isRunHeader b then .unit [b, v] else .key (BitVec.ofNat 17 w))
  else if nbits ≤ 24 then .key (BitVec.ofNat 17 w)
  else .ctrl (BitVec.ofNat 32 w)

/-- The instruction the decoder reads from the bits `w`, numbered as spec/opcode_table.json numbers them. -/
def decodeTableWord (nbits w : Nat) : Option Instr :=
  match decode (tableCode nbits w) with
  | .ok i => some i
  | .error _ => none

end Sys2Proof
end

