-- ==== Sys2Proof/Machine/State.lean ====
section
/-! DEFINITION. The state of the block (spec/10_state.md R22), its reset value (R37), and the reasons a step can stop. -/

namespace Sys2Proof.Machine

/-! ## Memories -/

/-- A memory by address: the locations that hold a value, addresses strictly rising. A location not listed holds no value
(10_state.md R39). FILE, LINE, LINE_LEN and PIX are memories of this form; `Memory Byte` is a list of `Host.Cell`. -/
abbrev Memory (α : Type) := List (Nat × α)

/-! ## The registers' types -/

/-- STATUS.STATE, the value of SEQ (R26). -/
inductive SeqState where
  | idle
  | busy
  | done
  | error
  deriving DecidableEq, Repr

/-- STATUS.ERR; 3 is never produced (R26). -/
inductive ErrCode where
  | noError
  | invalidHeader
  | notAPcxFile
  deriving DecidableEq, Repr

/-- STATUS.FORMAT (R26, 30_encoding.md R98). -/
inductive PixelFormat where
  | rgb24
  | indexedViaLuma
  | gray8
  | fallback
  deriving DecidableEq, Repr

/-- STATUS.PAL_SRC: none, or the strategy that supplied the palette; 6 and 7 are never produced (R26). -/
inductive PalSrc where
  | absent
  | s1
  | s2
  | s3
  | s4
  | s5
  deriving DecidableEq, Repr

/-- PHASE: the operation of the sequence that is running (40_sequencer_host_commands.md R122). -/
inductive Phase where
  | init
  | hdrParse
  | validate
  | dims
  | palExtract
  | formatSelect
  | decode
  | finish
  deriving DecidableEq, Repr

/-- Where inside PAL_EXTRACT or DECODE the sequencer stands: before a pass is set up, in its loops, or (PAL_EXTRACT only) at
the search for a palette. The model's own, since it steps unit by unit (log 4, DESIGN CHOICE, safe). -/
inductive Point where
  | enter
  | scan
  | search
  deriving DecidableEq, Repr

/-- The fields of STATUS (R26). -/
structure Status where
  state : SeqState
  err : ErrCode
  hdrValid : Bool
  palPresent : Bool
  imgValid : Bool
  trunc : Bool
  dimBad : Bool
  boundaryValid : Bool
  format : PixelFormat
  palSrc : PalSrc
  deriving DecidableEq, Repr

/-- The HDR_* registers and HPAL (R27, R28): written together by HDR_PARSE and withdrawn together. -/
structure Header where
  manufacturer : Byte
  version : Byte
  encoding : Byte
  bpp : Byte
  xmin : Half
  ymin : Half
  xmax : Half
  ymax : Half
  hdpi : Half
  vdpi : Half
  hpal : List Rgb
  numPlanes : Byte
  bytesPerLine : Half
  paletteInfo : Half
  hscreen : Half
  vscreen : Half
  deriving DecidableEq, Repr

/-- WIDTH, HEIGHT (18 bits, signed), IMG_COLS, IMG_ROWS (17 bits) (R29). -/
structure Dims where
  width : BitVec 18
  height : BitVec 18
  cols : BitVec 17
  rows : BitVec 17
  deriving DecidableEq, Repr

/-! ## The host (the model's own fields: log 5, log 6, DESIGN CHOICE, safe) -/

/-- What the host can do to the block (70_reset_and_hazards.md R243). -/
inductive HostOp where
  /-- Write a byte of FILE. -/
  | writeFile (a : Nat) (b : Byte)
  /-- Write a register by its number; number 0 is CTRL. -/
  | writeReg (index : Nat) (w : Word)
  /-- Read a register by its number. -/
  | readReg (index : Nat)
  /-- Read the pixel port at `(y, x)`. -/
  | readPixel (y x : Nat)
  deriving DecidableEq, Repr

/-- When a host move lands: after a number of block steps, or as soon as STATE is not BUSY (R243 steps 1 and 5). -/
inductive Moment where
  | after (steps : Nat)
  | notBusy
  deriving DecidableEq, Repr

/-- A host move still to come. -/
structure HostMove where
  moment : Moment
  op : HostOp
  deriving DecidableEq, Repr

/-- What a host read returned. -/
inductive HostData where
  /-- A register's 32-bit word. -/
  | word (w : Word)
  /-- STATUS read while BUSY: STATE is BUSY and no other field has a value (20_memory.md R70 c). -/
  | statusBusy
  /-- A pixel: the 24-bit word `{R, G, B}` of a present one (R28); present = 0 and no word for an absent one (R34; log 22). -/
  | pixel (word : Option (BitVec 24))
  deriving DecidableEq, Repr

/-! ## The state -/

/-- Everything the spec gives the block, its parameters, and the model's own `point`, `host` and `rdata`. `none`, and a location
that is not listed, is the spec's "no value" (R37, R39; log 2, DEDUCED, safe). CURSOR, BOUNDARY and FILE_LEN are as wide as the
parameter ADDR_W, so they are numbers; that they fit is `OffsetsFit`, which every step keeps (log 1, DESIGN CHOICE, safe). -/
structure State where
  /-- The named parameters of 00_scope.md R6; no step changes them (log 24, DESIGN CHOICE, safe). -/
  params : Config.Params
  /-- STATUS, SEQ among its fields (R26). -/
  status : Status
  /-- FILE_LEN, `L` (R24). -/
  fileLen : Nat
  /-- CURSOR, the program counter (R23). -/
  cursor : Nat
  /-- BOUNDARY, `E` (R30). -/
  boundary : Option Nat
  /-- HDR_* and HPAL (R27, R28). -/
  hdr : Option Header
  /-- WIDTH, HEIGHT, IMG_COLS, IMG_ROWS (R29). -/
  dims : Option Dims
  /-- PAL_COUNT (R31). -/
  palCount : BitVec 9
  /-- PAL: entry `i` has a value exactly for `i` below the list's length (R31). -/
  pal : List Rgb
  /-- LUMA: entry `i` has a value exactly for `i` below the list's length (R32). -/
  luma : List Byte
  /-- LINE, position `i` of plane `p` at the key of `lineKey` (R33). -/
  line : Memory Byte
  /-- LINE_LEN by plane (R33). -/
  lineLen : Memory (BitVec 16)
  /-- PIX, row `y`, column `x` at the key of `pixKey`; a listed `none` is an absent pixel (R34). -/
  pix : Memory (Option Rgb)
  /-- PHASE. -/
  phase : Phase
  /-- Where inside the phase (the model's own). -/
  point : Point
  /-- Y, the current scanline. -/
  y : BitVec 17
  /-- P, the current plane. -/
  p : BitVec 8
  /-- N, the bytes the current call has produced. -/
  n : BitVec 16
  /-- FILE, the host's memory (20_memory.md R60, R61). -/
  file : Memory Byte
  /-- The host's moves still to come, first one first (the model's own). -/
  host : List HostMove
  /-- What the last host read returned (the model's own). -/
  rdata : Option HostData
  deriving DecidableEq, Repr

/-- Every field of STATUS at 0 (R37). -/
def Status.reset : Status where
  state := .idle
  err := .noError
  hdrValid := false
  palPresent := false
  imgValid := false
  trunc := false
  dimBad := false
  boundaryValid := false
  format := .rgb24
  palSrc := .absent

/-- The block right after power-on reset (R37, 70_reset_and_hazards.md R240, R242). PHASE, Y, P, N and `point` have no value in
the spec and are named INIT, 0, 0, 0 and `enter` here: no rule reads them before it writes them (log 3, DESIGN CHOICE, unsafe).
No host move is pending. The parameters have the values of 00_scope.md R6. -/
def State.reset : State where
  params := Config.Params.standard
  status := Status.reset
  fileLen := 0
  cursor := 128
  boundary := none
  hdr := none
  dims := none
  palCount := 0
  pal := []
  luma := []
  line := []
  lineLen := []
  pix := []
  phase := .init
  point := .enter
  y := 0
  p := 0
  n := 0
  file := []
  host := []
  rdata := none

/-! ## The reasons a step can stop -/

/-- The machine stops with a fault. InvalidHeader and NotAPCXFile are no faults here: they are next states with STATE = ERROR
(60_exceptions.md R224). -/
inductive Fault where
  /-- Raised by `fileByte` on an offset at or beyond FILE_LEN, which does not exist (20_memory.md R61). No step reaches it: every
  rule tests the offset first. Safe (log 19). -/
  | fileOutOfRange
  deriving DecidableEq, Repr

/-- The machine has no meaning for what was asked. -/
inductive Refusal where
  /-- Raised by a refused arm of `exec`: an instruction without a meaning yet. Safe. -/
  | notModelled (mnemonic : String)
  /-- Raised by `fileByte`: the block reads a FILE byte below FILE_LEN that the host never wrote; "a model gives such bytes no
  value and refuses the run" (70_reset_and_hazards.md R244, 93 U13). Safe (log 7). -/
  | fileByteNoValue
  /-- Raised by a block operation that reads a register with no value (10_state.md R39); no run reaches it. Safe (log 20). -/
  | blockReadNoValue
  /-- Raised by a host read of a register, palette entry or pixel that has no value (10_state.md R39, 93 U10). Safe (log 8). -/
  | hostReadNoValue
  /-- Raised by a host read of anything but STATUS while STATE = BUSY (20_memory.md R70 c, 93 U8). Safe (log 8). -/
  | hostReadWhileBusy
  /-- Raised by a host write to FILE or FILE_LEN while STATE = BUSY (70_reset_and_hazards.md R246, 93 U8). Safe (log 8). -/
  | hostWriteWhileBusy
  /-- Raised by a host write of a FILE offset or a FILE_LEN that ADDR_W bits do not hold: such a file "cannot be presented at all"
  (70_reset_and_hazards.md R244, 93 U15). Safe (log 1). -/
  | hostFileTooLong
  /-- Raised by DIMS on a header that asks for more than LINE_CAPACITY or PIX_CAPACITY (93 U14, 92 D30); with the capacities of
  00_scope.md R6 no header does. Safe (log 10). -/
  | headerExceedsCapacity
  deriving DecidableEq, Repr

/-- Why an operation of the block stops. -/
inductive Stop where
  | fault (f : Fault)
  | refusal (r : Refusal)
  deriving DecidableEq, Repr

end Sys2Proof.Machine
end

