-- ==== Sys2Proof/Machine/Ops.lean ====
section
/-! DEFINITION. The named operations over memory and registers, the entry to the two fatal errors, and the ways out of them. -/

namespace Sys2Proof.Machine

/-! ## Memories -/

/-- The strictly rising order of a memory's addresses; a listed location always differs from an unlisted one, which holds no
value. -/
abbrev Memory.wf {α : Type} (m : Memory α) : Prop := m.Pairwise (fun a b => a.1 < b.1)

/-- What a location that is not listed reads as: no value (10_state.md R39, 70_reset_and_hazards.md R244; log 7, safe). -/
def Memory.unlisted {α : Type} : Option α := none

/-- The value at an address. -/
def Memory.get {α : Type} : Memory α → Nat → Option α
  | [], _ => Memory.unlisted
  | (k, v) :: rest, a => if a = k then some v else Memory.get rest a

/-- Write one location. -/
def Memory.set {α : Type} : Memory α → Nat → α → Memory α
  | [], a, v => [(a, v)]
  | (k, w) :: rest, a, v =>
    if a < k then (a, v) :: (k, w) :: rest
    else if a = k then (a, v) :: rest
    else (k, w) :: Memory.set rest a v

/-- The address of position `i` of plane `p` in LINE (20_memory.md R67; log 11, DESIGN CHOICE, safe): `i` is below 65536. -/
def lineKey (p i : Nat) : Nat := p * 65536 + i

/-- The address of row `y`, column `x` in PIX (20_memory.md R67; log 11, DESIGN CHOICE, safe): `x` is below 65536. -/
def pixKey (y x : Nat) : Nat := y * 65536 + x

/-! ## Operations that may stop -/

/-- The outcome of an operation as the outcome of a step. -/
def outcomeOf : Except Stop State → Host.Outcome State Fault Refusal
  | .ok s => .next s
  | .error (.fault f) => .fault f
  | .error (.refusal r) => .refused r

/-- `F[a]` (20_memory.md R61): a byte below FILE_LEN that the host wrote. -/
def fileByte (s : State) (a : Nat) : Except Stop Byte :=
  if a < s.fileLen then
    match s.file.get a with
    | some b => .ok b
    | none => .error (.refusal .fileByteNoValue)
  else .error (.fault .fileOutOfRange)

/-- The HDR_* registers, read by the block. -/
def header (s : State) : Except Stop Header :=
  match s.hdr with
  | some h => .ok h
  | none => .error (.refusal .blockReadNoValue)

/-- WIDTH, HEIGHT, IMG_COLS, IMG_ROWS, read by the block. -/
def dimensions (s : State) : Except Stop Dims :=
  match s.dims with
  | some d => .ok d
  | none => .error (.refusal .blockReadNoValue)

/-- BOUNDARY, read by the block. -/
def boundaryOffset (s : State) : Except Stop Nat :=
  match s.boundary with
  | some e => .ok e
  | none => .error (.refusal .blockReadNoValue)

/-! ## The sequencer's registers -/

/-- PHASE moves on to an operation's beginning. -/
def goPhase (ph : Phase) (s : State) : State := { s with phase := ph, point := .enter }

/-- The beginning of a pass: CURSOR at the first byte after the header and the first call's budget untouched
(40_sequencer_host_commands.md R126, 42_palette_extract.md R152). -/
def startPass (s : State) : State :=
  { s with cursor := Config.headerLen, y := 0, p := 0, n := 0, point := .scan }

/-- The calls' results are stored: true in the real pass, false in the dry run (43_rle_decode.md R170, R178). -/
def storing (s : State) : Bool := s.phase == .decode

/-! ## The fatal errors -/

/-- `raise X` (60_exceptions.md R224): the code is recorded, every result is withdrawn, the decode ends in ERROR. -/
def raiseError (e : ErrCode) (s : State) : State :=
  { s with
    status := { s.status with
      state := .error, err := e, hdrValid := false, palPresent := false, imgValid := false, boundaryValid := false }
    hdr := none
    dims := none }

/-- What START makes of the sequencer's state; with `resetBlock` the only ways out of ERROR (60_exceptions.md R226). -/
def beginDecode (s : State) : State :=
  goPhase .init { s with status := { s.status with state := .busy } }

/-- Every register and memory of the block at its reset value; FILE is the host's and stays, and so do the host's own moves and the
parameters (40_sequencer_host_commands.md R121, 70_reset_and_hazards.md R240, R242). -/
def resetBlock (s : State) : State :=
  { State.reset with params := s.params, file := s.file, host := s.host, rdata := s.rdata }

end Sys2Proof.Machine
end

