-- ==== Sys2Proof/Machine/Operands.lean ====
section
/-! DEFINITION. The operand forms: 16-bit fields, RGB triples, tables of triples, the copies of a run, the format key. -/

namespace Sys2Proof.Machine

/-! ## FILE operands -/

/-- Little-endian assembly of a 16-bit field (20_memory.md R62). -/
def u16 (lo hi : Byte) : Half := hi ++ lo

/-- `U16(a)` (20_memory.md R62). -/
def fileHalf (s : State) (a : Nat) : Except Stop Half := do
  let lo ← fileByte s a
  let hi ← fileByte s (a + 1)
  return u16 lo hi

/-- `RGB(a)` (20_memory.md R63): red, green, blue. -/
def fileTriple (s : State) (a : Nat) : Except Stop Rgb := do
  let r ← fileByte s a
  let g ← fileByte s (a + 1)
  let b ← fileByte s (a + 2)
  return ⟨r, g, b⟩

/-- `count` triples from `base` on, in index order (30_encoding.md R96, R97). -/
def fileTriples (s : State) (base : Nat) : (count : Nat) → Except Stop (List Rgb)
  | 0 => return []
  | count + 1 => do
    let t ← fileTriple s base
    let ts ← fileTriples s (base + 3) count
    return t :: ts

/-- The 24-bit word `{R, G, B}` (10_state.md R28). -/
def rgbWord (t : Rgb) : BitVec 24 := t.r ++ t.g ++ t.b

/-! ## RLE operands -/

/-- `min(count, B - N)` (43_rle_decode.md R172, R173). -/
def runCopies (count : BitVec 6) (bytesPerLine n : BitVec 16) : Nat :=
  min count.toNat (bytesPerLine.toNat - n.toNat)

/-- The bytes the decoder looks at for one unit: the byte at CURSOR and, for a run header, the byte after it if the file has one
(30_encoding.md R93, 43_rle_decode.md R170). Nothing else is read. -/
def fetchUnit (s : State) : Except Stop (List Byte) := do
  let b ← fileByte s s.cursor
  if unitLength b = 2 ∧ s.cursor + 1 < s.fileLen then
    let v ← fileByte s (s.cursor + 1)
    return [b, v]
  else
    return [b]

/-! ## Format operands -/

/-- The key K of the state (30_encoding.md R98). -/
def stateKey (h : Header) (s : State) : BitVec 17 :=
  formatKey s.status.palPresent h.numPlanes h.bpp

/-- The row of the format table that the FORMAT register names, for the row-by-row policy (44_pixel_assemble.md R190). -/
def formatInstr (h : Header) (s : State) : Instr :=
  match s.status.format with
  | .rgb24 => .fmtRgb24 s.status.palPresent
  | .indexedViaLuma => .fmtIndexedViaLuma
  | .gray8 => .fmtGray8
  | .fallback => .fmtFallback s.status.palPresent h.numPlanes h.bpp

/-- Byte `x` of plane `p`'s trimmed buffer; a byte at or beyond LINE_LEN, or that was never produced, does not exist
(10_state.md R33, 44_pixel_assemble.md R196; log 12, DEDUCED, safe). -/
def lineByte (s : State) (p x : Nat) : Option Byte :=
  match s.lineLen.get p with
  | some len => if x < len.toNat then s.line.get (lineKey p x) else none
  | none => none

end Sys2Proof.Machine
end

