-- ==== Sys2Proof/Machine/Flags.lean ====
section
/-! DEFINITION. STATUS as a word (10_state.md R26), its codes, and the computations that set a flag. -/

namespace Sys2Proof.Machine

/-- STATUS[1:0]. -/
def SeqState.code : SeqState → BitVec 2
  | .idle => 0
  | .busy => 1
  | .done => 2
  | .error => 3

/-- STATUS[3:2] (60_exceptions.md R221, R222). -/
def ErrCode.code : ErrCode → BitVec 2
  | .noError => 0
  | .invalidHeader => 1
  | .notAPcxFile => 2

/-- STATUS[11:10] (30_encoding.md R98). -/
def PixelFormat.code : PixelFormat → BitVec 2
  | .rgb24 => 0
  | .indexedViaLuma => 1
  | .gray8 => 2
  | .fallback => 3

/-- STATUS[14:12]. -/
def PalSrc.code : PalSrc → BitVec 3
  | .absent => 0
  | .s1 => 1
  | .s2 => 2
  | .s3 => 3
  | .s4 => 4
  | .s5 => 5

/-- PHASE's number (40_sequencer_host_commands.md R122). -/
def Phase.code : Phase → BitVec 3
  | .init => 0
  | .hdrParse => 1
  | .validate => 2
  | .dims => 3
  | .palExtract => 4
  | .formatSelect => 5
  | .decode => 6
  | .finish => 7

/-- PAL_COUNT for each PAL_SRC (42_palette_extract.md R161). -/
def PalSrc.count : PalSrc → BitVec 9
  | .absent => 0
  | .s1 => 256
  | .s2 => 256
  | .s3 => 256
  | .s4 => 256
  | .s5 => 16

/-- The word a read of STATUS gives outside BUSY (R26). -/
def Status.word (t : Status) : Word :=
  0#17 ++ t.palSrc.code ++ t.format.code ++ BitVec.ofBool t.boundaryValid ++ BitVec.ofBool t.dimBad ++ BitVec.ofBool t.trunc ++
    BitVec.ofBool t.imgValid ++ BitVec.ofBool t.palPresent ++ BitVec.ofBool t.hdrValid ++ t.err.code ++ t.state.code

/-- What INIT makes of STATUS: every field but STATE at 0 (40_sequencer_host_commands.md R124). -/
def Status.cleared (t : Status) : Status := { Status.reset with state := t.state }

/-- DIM_BAD (41_header_parse.md R144). -/
def dimBad (w h : Int) : Bool := decide (w < 1 ∨ h < 1)

/-- TRUNC is set by a call of the real pass that produced fewer than `B` bytes, and stays set (10_state.md R26, 43_rle_decode.md
R175). -/
def truncAfter (trunc : Bool) (n bytesPerLine : BitVec 16) : Bool := trunc || decide (n.toNat < bytesPerLine.toNat)

end Sys2Proof.Machine
end

