-- ==== Sys2Proof/Machine/Rle.lean ====
section
/-! DEFINITION. The RLE decoder (spec/43_rle_decode.md): the units LITERAL and RUN, the truncated RUN, the end of a call, TRIM. -/

namespace Sys2Proof.Machine

/-! ## Units -/

/-- `k` copies of `v` at positions `n .. n+k-1` of plane `p` (R172). -/
def storeCopies (p n : Nat) (v : Byte) : (k : Nat) → Memory Byte → Memory Byte
  | 0, m => m
  | k + 1, m => (storeCopies p n v k m).set (lineKey p (n + k)) v

/-- A unit of `len` bytes that appends `k` copies of `v`: the copies are stored only in the real pass, N and CURSOR move in both
(R170, R178). -/
def appendUnit (len k : Nat) (v : Byte) (s : State) : State :=
  { s with
    line := if storing s then storeCopies s.p.toNat s.n.toNat v k s.line else s.line
    n := s.n + BitVec.ofNat 16 k
    cursor := s.cursor + len }

/-- LITERAL (R171): "a literal byte, appended once". -/
def literalUnit (v : Byte) (s : State) : State := appendUnit 1 1 v s

/-- LITERAL with first byte `0vvvvvvv` (R171). -/
def execLiteralLow (v : Byte) (s : State) : Host.Outcome State Fault Refusal := .next (literalUnit v s)

/-- LITERAL with first byte `10vvvvvv` (R171). -/
def execLiteralHigh (v : Byte) (s : State) : Host.Outcome State Fault Refusal := .next (literalUnit v s)

/-- RUN (R172): clipped to the budget (R173), count 0 included (R174); CURSOR moves by 2 whatever is appended. -/
def runUnit (count : BitVec 6) (v : Byte) (s : State) : Except Stop State := do
  let h ← header s
  return appendUnit 2 (runCopies count h.bytesPerLine s.n) v s

/-- RUN (R172). -/
def execRun (count : BitVec 6) (v : Byte) (s : State) : Host.Outcome State Fault Refusal := outcomeOf (runUnit count v s)

/-! ## What the sequencer does between units -/

/-- A run header that is the last byte of the file (R176): nothing is appended and CURSOR is at the end of the file, where the
next test of the loop leaves it. -/
def truncateRun (s : State) : State := { s with cursor := s.fileLen }

/-- The loop test of R170, made before every unit. -/
def unitDue (h : Header) (s : State) : Bool := decide (s.n.toNat < h.bytesPerLine.toNat) && decide (s.cursor < s.fileLen)

/-- The end of a storing call (R170, R175): LINE_LEN[P] and TRUNC. -/
def closeCall (h : Header) (s : State) : State :=
  { s with
    lineLen := s.lineLen.set s.p.toNat s.n
    status := { s.status with trunc := truncAfter s.status.trunc s.n h.bytesPerLine } }

/-- TRIM(P) (R183): `LINE_LEN[P] <- min(LINE_LEN[P], cols)`; only a shorter length is written. -/
def trimLine (d : Dims) (s : State) : State :=
  match s.lineLen.get s.p.toNat with
  | some len =>
    { s with lineLen := s.lineLen.set s.p.toNat (if d.cols.toNat < len.toNat then d.cols.setWidth 16 else len) }
  | none => s

/-- The next plane's call starts with `N = 0` at the unit after (R170, R173). -/
def nextPlane (s : State) : State := { s with p := s.p + 1, n := 0 }

/-- The end of one call: its results in the real pass, nothing but the loop's registers in the dry run (R170, R178, R183). -/
def endCall (h : Header) (d : Dims) (s : State) : State :=
  nextPlane (if storing s then trimLine d (closeCall h s) else s)

/-- The next scanline's calls start at plane 0 (40_sequencer_host_commands.md R126). -/
def nextRow (s : State) : State := { s with y := s.y + 1, p := 0, n := 0 }

end Sys2Proof.Machine
end

