-- ==== Sys2Proof/Machine/Assemble.lean ====
section
/-! DEFINITION. The pixel assembler (spec/44_pixel_assemble.md): format selection, the luma table, and the four row policies.
A row of the format table runs at two points of the sequence: FORMAT_SELECT (PHASE 5), where its key is matched, and once per
scanline of DECODE (PHASE 6), where it assembles row Y (log 14, DESIGN CHOICE, safe). -/

namespace Sys2Proof.Machine

/-! ## The luma table -/

/-- `S = 299 r + 587 g + 114 b` (R191, R198). -/
def lumaSum (t : Rgb) : Nat := 299 * t.r.toNat + 587 * t.g.toNat + 114 * t.b.toNat

/-- `S / 1000` to the nearest integer, an exact half by the convention given (R199; 93 U6). -/
def lumaRound (tie : Config.LumaTie) (sum : Nat) : Nat :=
  match tie with
  | .halfUp => (sum + 500) / 1000
  | .halfEven => if sum % 1000 = 500 ∧ sum / 1000 % 2 = 0 then sum / 1000 else (sum + 500) / 1000

/-- The luma of a palette entry (R191). -/
def lumaOf (tie : Config.LumaTie) (t : Rgb) : Byte := BitVec.ofNat 8 (lumaRound tie (lumaSum t))

/-- LUMA_BUILD (R191), a half rounded as LUMA_TIE says (R199): one luma for every entry of PAL, which has 256 of them whenever
this runs (log 13, DEDUCED, safe). -/
def buildLuma (s : State) : State := { s with luma := s.pal.map (lumaOf s.params.lumaTie) }

/-! ## Selecting a format -/

/-- FORMAT_SELECT (R190): the choice is recorded and the real pass is next. -/
def selectFormat (f : PixelFormat) (s : State) : State :=
  goPhase .decode { s with status := { s.status with format := f } }

/-! ## The four pixels -/

/-- A grey pixel of value `v`. -/
def grey (v : Byte) : Rgb := ⟨v, v, v⟩

/-- R192: plane 0 red, plane 1 green, plane 2 blue; absent when any of the three bytes does not exist. -/
def pixelRgb24 (s : State) (x : Nat) : Option Rgb :=
  match lineByte s 0 x, lineByte s 1 x, lineByte s 2 x with
  | some r, some g, some b => some ⟨r, g, b⟩
  | _, _, _ => none

/-- R193: the pixel byte is an index into LUMA. -/
def pixelLuma (s : State) (x : Nat) : Option Rgb :=
  match lineByte s 0 x with
  | some v => (s.luma[v.toNat]?).map grey
  | none => none

/-- R194, and R195 for `NP ≥ 1`: the byte of the first plane is the grey value. -/
def pixelGrey (s : State) (x : Nat) : Option Rgb := (lineByte s 0 x).map grey

/-- R195: with no plane every pixel is absent. -/
def pixelFallback (numPlanes : Byte) (s : State) (x : Nat) : Option Rgb :=
  if 1 ≤ numPlanes.toNat then pixelGrey s x else none

/-! ## Assembling a row -/

/-- The pixels `0 .. cols-1` of row `y`, each written once (R196). -/
def putRow (y : Nat) (px : Nat → Option Rgb) : (cols : Nat) → Memory (Option Rgb) → Memory (Option Rgb)
  | 0, m => m
  | x + 1, m => (putRow y px x m).set (pixKey y x) (px x)

/-- ASSEMBLE_ROW(Y) by a policy (R192 to R196), after which the sequencer takes the next scanline
(40_sequencer_host_commands.md R126). -/
def assembleRow (px : State → Nat → Option Rgb) (s : State) : Except Stop State := do
  let d ← dimensions s
  return nextRow { s with pix := putRow s.y.toNat (px s) d.cols.toNat s.pix }

/-- A row of the format table at its two points. -/
def formatRow (f : PixelFormat) (prepare : State → State) (px : State → Nat → Option Rgb) (s : State) : Except Stop State :=
  if s.phase = .decode then assembleRow px s else return selectFormat f (prepare s)

/-- FORMAT.Rgb24 (R190, R192). -/
def execFmtRgb24 (_palPresent : Bool) (s : State) : Host.Outcome State Fault Refusal :=
  outcomeOf (formatRow .rgb24 id pixelRgb24 s)

/-- FORMAT.IndexedViaLuma (R190, R191, R193). -/
def execFmtIndexedViaLuma (s : State) : Host.Outcome State Fault Refusal :=
  outcomeOf (formatRow .indexedViaLuma buildLuma pixelLuma s)

/-- FORMAT.Gray8 (R190, R194). -/
def execFmtGray8 (s : State) : Host.Outcome State Fault Refusal :=
  outcomeOf (formatRow .gray8 id pixelGrey s)

/-- FORMAT.Fallback (R190, R195). -/
def execFmtFallback (_palPresent : Bool) (numPlanes _bpp : Byte) (s : State) : Host.Outcome State Fault Refusal :=
  outcomeOf (formatRow .fallback id (pixelFallback numPlanes) s)

end Sys2Proof.Machine
end

