-- ==== Sys2Proof/Machine/Commands.lean ====
section
/-! DEFINITION. The host commands START, RESET and CTRL.NOP (spec/40_sequencer_host_commands.md R120, R121, 30_encoding.md R99). -/

namespace Sys2Proof.Machine

/-- START (R120): ignored while BUSY; in IDLE, DONE and ERROR the decode begins. -/
def execStart (_ignored : BitVec 30) (s : State) : Host.Outcome State Fault Refusal :=
  if s.status.state = .busy then .next s else .next (beginDecode s)

/-- RESET (R121): in any state, BUSY included; it wins over START (10_state.md R25). -/
def execReset (_startBit : Bool) (_ignored : BitVec 30) (s : State) : Host.Outcome State Fault Refusal :=
  .next (resetBlock s)

/-- A CTRL word with bits 1:0 = 00: nothing happens (30_encoding.md R99). -/
def execCtrlNop (_ignored : BitVec 30) (s : State) : Host.Outcome State Fault Refusal :=
  .next s

end Sys2Proof.Machine
end

