-- ==== Sys2Proof/Machine/Dispatch.lean ====
section
/-! DEFINITION. The meaning of every instruction, one arm per row of spec/opcode_table.json. -/

namespace Sys2Proof.Machine

def exec (i : Instr) (s : State) : Host.Outcome State Fault Refusal :=
  match i with
  | .literalLow v => Sys2Proof.Machine.execLiteralLow v s
  | .literalHigh v => Sys2Proof.Machine.execLiteralHigh v s
  | .run count v => Sys2Proof.Machine.execRun count v s
  | .fmtRgb24 palPresent => Sys2Proof.Machine.execFmtRgb24 palPresent s
  | .fmtIndexedViaLuma => Sys2Proof.Machine.execFmtIndexedViaLuma s
  | .fmtGray8 => Sys2Proof.Machine.execFmtGray8 s
  | .fmtFallback palPresent numPlanes bpp => Sys2Proof.Machine.execFmtFallback palPresent numPlanes bpp s
  | .start ignored => Sys2Proof.Machine.execStart ignored s
  | .reset startBit ignored => Sys2Proof.Machine.execReset startBit ignored s
  | .ctrlNop ignored => Sys2Proof.Machine.execCtrlNop ignored s

end Sys2Proof.Machine
end

