-- ==== Sys2Proof/Machine/HeaderParse.lean ====
section
/-! DEFINITION. The header parser (spec/41_header_parse.md): HDR_PARSE, VALIDATE, DIMS; and INIT and FINISH, the first and the
last operation of a decode (40_sequencer_host_commands.md R124, R127). -/

namespace Sys2Proof.Machine

/-- INIT (40_sequencer_host_commands.md R124): FILE_LEN is not touched; LINE, LINE_LEN, Y, P, N are not listed there and stay
until the decode writes them (log 21, DEDUCED, safe). -/
def initDecode (s : State) : State :=
  goPhase .hdrParse { s with
    status := s.status.cleared
    palCount := 0
    cursor := Config.headerLen
    boundary := none
    hdr := none
    dims := none
    pal := []
    luma := []
    pix := [] }

/-- Field extraction (R142): bytes 64 and 74 to 127 are not read. -/
def readHeader (s : State) : Except Stop Header := do
  let manufacturer ← fileByte s 0
  let version ← fileByte s 1
  let encoding ← fileByte s 2
  let bpp ← fileByte s 3
  let xmin ← fileHalf s 4
  let ymin ← fileHalf s 6
  let xmax ← fileHalf s 8
  let ymax ← fileHalf s 10
  let hdpi ← fileHalf s 12
  let vdpi ← fileHalf s 14
  let hpal ← fileTriples s 16 Config.hpalEntries
  let numPlanes ← fileByte s 65
  let bytesPerLine ← fileHalf s 66
  let paletteInfo ← fileHalf s 68
  let hscreen ← fileHalf s 70
  let vscreen ← fileHalf s 72
  return { manufacturer, version, encoding, bpp, xmin, ymin, xmax, ymax, hdpi, vdpi, hpal, numPlanes, bytesPerLine,
           paletteInfo, hscreen, vscreen }

/-- HDR_PARSE (R141, R142): a file of fewer than 128 bytes is rejected before any byte is read. -/
def hdrParse (s : State) : Except Stop State :=
  if s.fileLen < Config.headerLen then
    return raiseError .invalidHeader s
  else do
    let h ← readHeader s
    return goPhase .validate { s with hdr := some h }

/-- VALIDATE (R143): the manufacturer byte and nothing else. -/
def validate (s : State) : Except Stop State := do
  let h ← header s
  if h.manufacturer = Config.manufacturerId then
    return goPhase .dims { s with status := { s.status with hdrValid := true } }
  else
    return raiseError .notAPcxFile s

/-- `max - min + 1` over the integers (R144). -/
def extent (lo hi : Half) : Int := (hi.toNat : Int) - (lo.toNat : Int) + 1

/-- DIMS (R144): 18-bit signed WIDTH and HEIGHT, 17-bit IMG_COLS and IMG_ROWS. -/
def dimsOf (h : Header) : Dims where
  width := BitVec.ofInt 18 (extent h.xmin h.xmax)
  height := BitVec.ofInt 18 (extent h.ymin h.ymax)
  cols := BitVec.ofNat 17 (extent h.xmin h.xmax).toNat
  rows := BitVec.ofNat 17 (extent h.ymin h.ymax).toNat

/-- What DIMS leaves (R144). -/
def recordDims (h : Header) (s : State) : State :=
  goPhase .palExtract { s with
    dims := some (dimsOf h)
    status := { s.status with dimBad := dimBad (extent h.xmin h.xmax) (extent h.ymin h.ymax) } }

/-- A header whose line buffers (`NP` of `B` bytes) and pixels (`rows × cols`) the capacities hold (00_scope.md R6, 92 D30). -/
def holdsHeader (p : Config.Params) (h : Header) : Bool :=
  decide (h.numPlanes.toNat * h.bytesPerLine.toNat ≤ p.lineCapacity) &&
    decide ((dimsOf h).rows.toNat * (dimsOf h).cols.toNat ≤ p.pixCapacity)

/-- DIMS (R144); a header that asks for more than the capacities is refused here, where its sizes are first known (93 U14; log 10,
DESIGN CHOICE, safe). -/
def computeDims (s : State) : Except Stop State := do
  let h ← header s
  if holdsHeader s.params h then return recordDims h s else .error (.refusal .headerExceedsCapacity)

/-- FINISH (40_sequencer_host_commands.md R127). -/
def finish (s : State) : State :=
  { s with status := { s.status with imgValid := true, state := .done } }

end Sys2Proof.Machine
end

