-- ==== Sys2Proof/Machine/HostPort.lean ====
section
/-! DEFINITION. The host's side (spec/10_state.md R22, R34, R39, 20_memory.md R70): the register map, the pixel port, and what
each of the host's moves does. -/

namespace Sys2Proof.Machine

/-! ## The register map -/

/-- HDR_* by register number 16 to 30 (R22). -/
def headerWord (h : Header) : Nat → Option Word
  | 16 => some (h.manufacturer.setWidth 32)
  | 17 => some (h.version.setWidth 32)
  | 18 => some (h.encoding.setWidth 32)
  | 19 => some (h.bpp.setWidth 32)
  | 20 => some (h.xmin.setWidth 32)
  | 21 => some (h.ymin.setWidth 32)
  | 22 => some (h.xmax.setWidth 32)
  | 23 => some (h.ymax.setWidth 32)
  | 24 => some (h.hdpi.setWidth 32)
  | 25 => some (h.vdpi.setWidth 32)
  | 26 => some (h.numPlanes.setWidth 32)
  | 27 => some (h.bytesPerLine.setWidth 32)
  | 28 => some (h.paletteInfo.setWidth 32)
  | 29 => some (h.hscreen.setWidth 32)
  | 30 => some (h.vscreen.setWidth 32)
  | _ => none

/-- The word of a triple of a table, zero-extended (R22, R28). -/
def tripleWord (ts : List Rgb) (i : Nat) : Option Word := (ts[i]?).map (fun t => (rgbWord t).setWidth 32)

/-- The word of an offset; one beyond 32 bits, which no host can have written, has none (log 1). -/
def offsetWord (a : Nat) : Option Word := if a < 2 ^ 32 then some (BitVec.ofNat 32 a) else none

/-- What a read of register `index` gives while STATE is not BUSY; `none` is "no value" (R22, R39). WIDTH and HEIGHT read
sign-extended, every other register with its upper bits zero; CTRL reads 0 (R25; log 17, DEDUCED, safe). -/
def registerWord (s : State) (index : Nat) : Option Word :=
  if index = 0 then some 0
  else if index = 1 then some s.status.word
  else if index = 2 then offsetWord s.fileLen
  else if index = 3 then offsetWord s.cursor
  else if index = 4 then s.boundary.bind offsetWord
  else if index = 5 then s.dims.map (fun d => d.width.signExtend 32)
  else if index = 6 then s.dims.map (fun d => d.height.signExtend 32)
  else if index = 7 then s.dims.map (fun d => d.cols.setWidth 32)
  else if index = 8 then s.dims.map (fun d => d.rows.setWidth 32)
  else if index = 9 then some (s.palCount.setWidth 32)
  else if 16 ≤ index ∧ index ≤ 30 then s.hdr.bind (fun h => headerWord h index)
  else if 32 ≤ index ∧ index ≤ 47 then s.hdr.bind (fun h => tripleWord h.hpal (index - 32))
  else if 256 ≤ index ∧ index ≤ 511 then tripleWord s.pal (index - 256)
  else none

/-- What the pixel port gives for `(y, x)`: `none` outside the image, while IMG_VALID = 0, or where nothing was written; else the
present bit and, for a present pixel, its word `{R, G, B}` packed as in R28 (R34). -/
def pixelPort (s : State) (y x : Nat) : Option (Option (BitVec 24)) :=
  match s.dims with
  | some d => if s.status.imgValid ∧ y < d.rows.toNat ∧ x < d.cols.toNat then
      (s.pix.get (pixKey y x)).map (Option.map rgbWord)
    else none
  | none => none

/-! ## The host's moves -/

/-- The block is in the middle of a decode. -/
def isBusy (s : State) : Bool := s.status.state == .busy

/-- A read that gives `d`, or has no value (R39). -/
def hostGets (d : Option HostData) (s : State) : Except Stop State :=
  match d with
  | some v => return { s with rdata := some v }
  | none => .error (.refusal .hostReadNoValue)

/-- A register read; while BUSY only STATUS, of which only STATE has a value (20_memory.md R70 c; log 8, log 18). -/
def hostReadReg (index : Nat) (s : State) : Except Stop State :=
  if isBusy s then
    if index = 1 then hostGets (some .statusBusy) s else .error (.refusal .hostReadWhileBusy)
  else hostGets ((registerWord s index).map .word) s

/-- A pixel read (R34). -/
def hostReadPixel (y x : Nat) (s : State) : Except Stop State :=
  if isBusy s then .error (.refusal .hostReadWhileBusy)
  else hostGets ((pixelPort s y x).map .pixel) s

/-- A write to a FILE byte (70_reset_and_hazards.md R243, R244, R246). -/
def hostWriteFile (a : Nat) (b : Byte) (s : State) : Except Stop State :=
  if isBusy s then .error (.refusal .hostWriteWhileBusy)
  else if s.params.holdsOffset a then return { s with file := s.file.set a b }
  else .error (.refusal .hostFileTooLong)

/-- A write to a register other than CTRL: FILE_LEN takes it, every other index has no effect (R22, 93 U17). -/
def hostWriteReg (index : Nat) (w : Word) (s : State) : Except Stop State :=
  if index = 2 then
    if isBusy s then .error (.refusal .hostWriteWhileBusy)
    else if s.params.holdsOffset w.toNat then return { s with fileLen := w.toNat }
    else .error (.refusal .hostFileTooLong)
  else return s

end Sys2Proof.Machine
end

