-- ==== Sys2Proof/Machine/Palette.lean ====
section
/-! DEFINITION. The palette extractor (spec/42_palette_extract.md): the version gate, the end of the dry run, the five strategies
in their order, and the record of the outcome. -/

namespace Sys2Proof.Machine

/-- The version gate of the 256-colour strategies (R151). -/
def versionGate (h : Header) : Bool := decide (Config.palMinVersion ≤ h.version.toNat)

/-- The end of the dry run (R152): BOUNDARY holds CURSOR; the search for a palette is next. -/
def closeDryRun (s : State) : State :=
  { s with boundary := some s.cursor, status := { s.status with boundaryValid := true }, point := .search }

/-- Parse768(base) (R159). -/
def parse768 (s : State) (base : Nat) : Except Stop (List Rgb) := fileTriples s base Config.pal256Entries

/-- `F[a] = 12`, asked only where the byte exists (R150): `there` is the conjunct that shows it does. -/
def markerAt (s : State) (there : Prop) [Decidable there] (a : Nat) : Except Stop Bool :=
  if there then do
    let b ← fileByte s a
    return b == Config.palMarker
  else return false

/-- S1 to S4 (R150, R153 to R156), each tried only if every earlier one failed. -/
def search256 (s : State) (e : Nat) : Except Stop (Option (List Rgb × PalSrc)) := do
  let len := s.fileLen
  let marked ← markerAt s (e < len) e
  if marked ∧ e + 769 ≤ len then
    let t ← parse768 s (e + 1)
    return some (t, .s1)
  else if e + Config.pal256Bytes ≤ len then
    let t ← parse768 s e
    return some (t, .s2)
  else
    let trailing ← markerAt s (len > Config.pal256Bytes) (len - 769)
    if trailing then
      let t ← parse768 s (len - Config.pal256Bytes)
      return some (t, .s3)
    else if Config.pal256Bytes ≤ len then
      let t ← parse768 s (len - Config.pal256Bytes)
      return some (t, .s4)
    else
      return none

/-- S5 (R157): the header's table, when no 256-colour palette was found and the pixels have at most 4 bits. -/
def headerPalette (h : Header) : Option (List Rgb × PalSrc) :=
  if h.bpp.toNat ≤ Config.hpalMaxBpp then some (h.hpal, .s5) else none

/-- The outcome is recorded (R158, R161) and the format is selected next. -/
def recordPalette (found : Option (List Rgb × PalSrc)) (s : State) : State :=
  match found with
  | some (t, src) =>
    goPhase .formatSelect { s with
      pal := t, palCount := src.count, status := { s.status with palPresent := true, palSrc := src } }
  | none =>
    goPhase .formatSelect { s with
      palCount := PalSrc.absent.count, status := { s.status with palPresent := false, palSrc := .absent } }

/-- What the strategies find (R150): "first success wins". -/
def findPalette (h : Header) (s : State) : Except Stop (Option (List Rgb × PalSrc)) :=
  if versionGate h then do
    let e ← boundaryOffset s
    let found ← search256 s e
    return found <|> headerPalette h
  else return headerPalette h

/-- PAL_EXTRACT after the dry run (R150). -/
def searchPalette (s : State) : Except Stop State := do
  let h ← header s
  let found ← findPalette h s
  return recordPalette found s

/-- PAL_EXTRACT's beginning (R150, R151): the dry run only if the version passes the gate. -/
def enterPalExtract (s : State) : Except Stop State := do
  let h ← header s
  if versionGate h then return startPass s else return { s with point := .search }

end Sys2Proof.Machine
end

