-- ==== Sys2Proof/Machine/Sequencer.lean ====
section
/-! DEFINITION. The sequencer (spec/40_sequencer_host_commands.md R122, R126): who moves next, and what the block does next. -/

namespace Sys2Proof.Machine

/-- What the next step is: an instruction to run in a state, or the outcome of a hard-wired operation. -/
inductive Plan where
  | instr (i : Instr) (s : State)
  | outcome (o : Host.Outcome State Fault Refusal)

/-! ## The block -/

/-- A hard-wired operation. -/
def Plan.operation (r : Except Stop State) : Plan := .outcome (outcomeOf r)

/-- One unit of the stream, or the truncated RUN at its end (43_rle_decode.md R170, R176). -/
def planUnit (s : State) : Plan :=
  match fetchUnit s with
  | .error e => .operation (.error e)
  | .ok bytes =>
    match decodeUnit bytes with
    | .ok (i, _) => .instr i s
    | .error _ => .operation (.ok (truncateRun s))

/-- The end of a pass: of the dry run (42_palette_extract.md R152), or of the real pass. -/
def endPass (s : State) : State := if storing s then goPhase .finish s else closeDryRun s

/-- The loops of a pass (R126, 42_palette_extract.md R152): scanlines outside, planes inside, units innermost; at the end of a
scanline the real pass assembles its row by FORMAT. -/
def planScan (h : Header) (d : Dims) (s : State) : Plan :=
  if s.y.toNat < d.rows.toNat then
    if s.p.toNat < h.numPlanes.toNat then
      if unitDue h s then planUnit s else .operation (.ok (endCall h d s))
    else if storing s then .instr (formatInstr h s) s
    else .operation (.ok (nextRow s))
  else .operation (.ok (endPass s))

/-- A pass in its loops, whose bounds are header registers. -/
def planPass (s : State) : Plan :=
  match header s, dimensions s with
  | .ok h, .ok d => planScan h d s
  | .error e, _ => .operation (.error e)
  | _, .error e => .operation (.error e)

/-- FORMAT_SELECT (44_pixel_assemble.md R190): the key K is decoded once. -/
def planFormat (s : State) : Plan :=
  match header s with
  | .ok h => .instr (decodeKey (stateKey h s)) s
  | .error e => .operation (.error e)

/-- The operation PHASE names (R122). -/
def planPhase (s : State) : Plan :=
  match s.phase with
  | .init => .operation (.ok (initDecode s))
  | .hdrParse => .operation (hdrParse s)
  | .validate => .operation (validate s)
  | .dims => .operation (computeDims s)
  | .palExtract =>
    match s.point with
    | .enter => .operation (enterPalExtract s)
    | .scan => planPass s
    | .search => .operation (searchPalette s)
  | .formatSelect => planFormat s
  | .decode =>
    match s.point with
    | .enter => .operation (.ok (startPass s))
    | .scan => planPass s
    | .search => planPass s
  | .finish => .operation (.ok (finish s))

/-- The block's next step: nothing outside BUSY (R129, 70_reset_and_hazards.md R241). -/
def planBlock (s : State) : Plan := if isBusy s then planPhase s else .operation (.ok s)

/-! ## The host -/

/-- A host move: a write to CTRL is a command, to be decoded and run (30_encoding.md R99). -/
def planHost (op : HostOp) (s : State) : Plan :=
  match op with
  | .writeFile a b => .operation (hostWriteFile a b s)
  | .writeReg index w => if index = 0 then .instr (decodeCtrl w) s else .operation (hostWriteReg index w s)
  | .readReg index => .operation (hostReadReg index s)
  | .readPixel y x => .operation (hostReadPixel y x s)

/-- Whose turn it is: the host's with the move it makes, or the block's; and the state with that move taken off the list, or its
countdown one lower (log 5, DESIGN CHOICE, safe). -/
def takeTurn (s : State) : Option HostOp × State :=
  match s.host with
  | [] => (none, s)
  | ⟨.after 0, op⟩ :: rest => (some op, { s with host := rest })
  | ⟨.after (k + 1), op⟩ :: rest => (none, { s with host := ⟨.after k, op⟩ :: rest })
  | ⟨.notBusy, op⟩ :: rest => if isBusy s then (none, s) else (some op, { s with host := rest })

/-- The next step of the machine. -/
def plan (s : State) : Plan :=
  match takeTurn s with
  | (some op, s') => planHost op s'
  | (none, s') => planBlock s'

/-! ## Placing an instruction where the next step fetches it -/

/-- The registers of a header, all 0: what a placed instruction starts from when HDR_* hold no value. -/
def Header.zero : Header where
  manufacturer := 0
  version := 0
  encoding := 0
  bpp := 0
  xmin := 0
  ymin := 0
  xmax := 0
  ymax := 0
  hdpi := 0
  vdpi := 0
  hpal := []
  numPlanes := 0
  bytesPerLine := 0
  paletteInfo := 0
  hscreen := 0
  vscreen := 0

/-- The bytes of a unit in FILE from offset 128 on, in stream order. -/
def placeBytes : (a : Nat) → List Byte → Memory Byte → Memory Byte
  | _, [], m => m
  | a, b :: bs, m => placeBytes (a + 1) bs (m.set a b)

/-- A unit at CURSOR = 128 of the real pass's first call, of the largest budget (log 16). -/
def placeUnit (bytes : List Byte) (s : State) : State :=
  { s with
    status := { s.status with state := .busy }
    phase := .decode, point := .scan, y := 0, p := 0, n := 0
    cursor := Config.headerLen
    fileLen := Config.headerLen + bytes.length
    file := placeBytes Config.headerLen bytes s.file
    hdr := some { (s.hdr.getD Header.zero) with numPlanes := 1, bytesPerLine := 65535 }
    dims := some ⟨1, 1, 1, 1⟩
    host := [] }

/-- A key in the registers FORMAT_SELECT forms it from (log 16). -/
def placeKey (k : BitVec 17) (s : State) : State :=
  { s with
    status := { s.status with state := .busy, palPresent := k.getLsbD 16 }
    phase := .formatSelect, point := .enter
    hdr := some { (s.hdr.getD Header.zero) with numPlanes := k.extractLsb' 8 8, bpp := k.extractLsb' 0 8 }
    host := [] }

/-- A word the host writes to CTRL now (log 16). -/
def placeCommand (w : Word) (s : State) : State :=
  { s with host := ⟨.after 0, .writeReg 0 w⟩ :: s.host }

/-- An instruction's code where the next step fetches it. -/
def placeCode (c : Code) (s : State) : State :=
  match c with
  | .unit bytes => placeUnit bytes s
  | .key k => placeKey k s
  | .ctrl w => placeCommand w s

end Sys2Proof.Machine
end

