-- ==== Sys2Proof/Machine/Step.lean ====
section
/-! DEFINITION. One step of the machine: a host move, one unit of the stream, one row of the format table, or one hard-wired
operation of the sequence (spec/40_sequencer_host_commands.md R122, R123; log 4, DESIGN CHOICE, safe). -/

namespace Sys2Proof.Machine

/-- What a plan comes to: an instruction is executed, an operation has its outcome. -/
def Plan.run : Plan → Host.Outcome State Fault Refusal
  | .instr i s => exec i s
  | .outcome o => o

/-- One step. -/
def step (s : State) : Host.Outcome State Fault Refusal := (plan s).run

/-- The state with the instruction whose bits are `w` (numbered as spec/opcode_table.json numbers them) where the next step
fetches it: a unit in FILE at CURSOR, a key in the registers it is formed from, a CTRL word as the host's next move (log 16). -/
def State.withFetchWord (s : State) (nbits w : Nat) : State := placeCode (tableCode nbits w) s

end Sys2Proof.Machine
end

