-- ==== Sys2Proof/Safety.lean ====
section
/-! DEFINITION. The terms claims are stated in: where a pass stands, the invariants of the machine, what a run needs to go on, how
many steps it may take, and the spec's own account of a palette's place. -/

namespace Sys2Proof.Machine

/-! ## Instructions -/

/-- A unit of the RLE stream. -/
def isUnitInstr : Instr → Bool
  | .literalLow _ => true
  | .literalHigh _ => true
  | .run _ _ => true
  | _ => false

/-- A row of the format table. -/
def isFormatInstr : Instr → Bool
  | .fmtRgb24 _ => true
  | .fmtIndexedViaLuma => true
  | .fmtGray8 => true
  | .fmtFallback _ _ _ => true
  | _ => false

/-- The FORMAT code of a row of the format table (30_encoding.md R98). -/
def formatOf : Instr → Option PixelFormat
  | .fmtRgb24 _ => some .rgb24
  | .fmtIndexedViaLuma => some .indexedViaLuma
  | .fmtGray8 => some .gray8
  | .fmtFallback _ _ _ => some .fallback
  | _ => none

/-- How many bytes of LINE a unit stores in the real pass, from `lineKey P N` on (43_rle_decode.md R171, R172). -/
def unitCopies (i : Instr) (s : State) : Nat :=
  match i, s.hdr with
  | .literalLow _, _ => 1
  | .literalHigh _, _ => 1
  | .run c _, some h => runCopies c h.bytesPerLine s.n
  | _, _ => 0

/-! ## A pass -/

/-- A pass whose loops run: the header registers that bound them hold values. -/
structure InPass (h : Header) (d : Dims) (s : State) : Prop where
  busy : isBusy s = true
  hdr : s.hdr = some h
  dims : s.dims = some d
  where_ : (s.phase = .palExtract ∧ s.point = .scan) ∨ (s.phase = .decode ∧ s.point ≠ .enter)

/-- The call of the current plane is still running. -/
def InCall (h : Header) (d : Dims) (s : State) : Prop := s.y.toNat < d.rows.toNat ∧ s.p.toNat < h.numPlanes.toNat

/-- The loops of a pass run. -/
abbrev Scanning (s : State) : Prop :=
  isBusy s = true ∧ ((s.phase = .palExtract ∧ s.point = .scan) ∨ (s.phase = .decode ∧ s.point ≠ .enter))

/-! ## Invariants -/

/-- Every memory is in its canonical form. -/
abbrev Canonical (s : State) : Prop := s.file.wf ∧ s.line.wf ∧ s.lineLen.wf ∧ s.pix.wf

/-- CURSOR, BOUNDARY and FILE_LEN fit ADDR_W bits, of which there are at least 8 (00_scope.md R6, 92 D2). -/
abbrev OffsetsFit (s : State) : Prop :=
  8 ≤ s.params.addrW ∧ s.fileLen < 2 ^ s.params.addrW ∧ s.cursor < 2 ^ s.params.addrW ∧ ∀ e ∈ s.boundary, e < 2 ^ s.params.addrW

/-- Offsets fit their width; while a pass runs CURSOR is between 128 and L, and N, P, Y are within their loops' bounds (10_state.md
R23, 43_rle_decode.md R170); FILE_LEN is at least 128 once the header was parsed (41_header_parse.md R141). -/
abbrev InRange (s : State) : Prop :=
  OffsetsFit s ∧
  (isBusy s = true → s.phase ≠ .init → s.phase ≠ .hdrParse → 128 ≤ s.fileLen) ∧
  (Scanning s → 128 ≤ s.cursor ∧ s.cursor ≤ s.fileLen ∧
    ∀ h ∈ s.hdr, ∀ d ∈ s.dims,
      s.n.toNat ≤ h.bytesPerLine.toNat ∧ s.p.toNat ≤ h.numPlanes.toNat ∧ s.y.toNat ≤ d.rows.toNat)

/-- No result of a decode: what INIT leaves (40_sequencer_host_commands.md R124). -/
abbrev NoResult (s : State) : Prop :=
  s.status.palPresent = false ∧ s.status.imgValid = false ∧ s.status.trunc = false ∧ s.status.dimBad = false ∧
  s.status.boundaryValid = false ∧ s.status.format = .rgb24 ∧ s.status.palSrc = .absent ∧ s.palCount = 0 ∧
  s.boundary = none ∧ s.dims = none ∧ s.pal = [] ∧ s.luma = [] ∧ s.pix = []

/-- ERR is nonzero exactly in ERROR, where no result is left; outside BUSY, and in BUSY from INIT on (10_state.md R26,
60_exceptions.md R224). -/
abbrev ErrorCoherent (s : State) : Prop :=
  (s.status.state = .error → s.status.err ≠ .noError ∧ s.status.hdrValid = false ∧ s.hdr = none ∧ NoResult s) ∧
  (s.status.state ≠ .error → ¬(isBusy s = true ∧ s.phase = .init) → s.status.err = .noError) ∧
  (isBusy s = true → s.phase = .hdrParse ∨ s.phase = .validate → NoResult s)

/-- IDLE is the reset state but for the parameters and what the host has written and read since (10_state.md R37). -/
abbrev IdleIsReset (s : State) : Prop :=
  s.status.state = .idle →
    s = { State.reset with params := s.params, fileLen := s.fileLen, file := s.file, host := s.host, rdata := s.rdata }

/-- The decode has left INIT: its results are its own. -/
abbrev PastInit (s : State) : Prop := ¬(isBusy s = true ∧ s.phase = .init)

/-- The palette's registers agree with each other, BOUNDARY has a value exactly when BOUNDARY_VALID says so, IMG_VALID is DONE,
DONE has a header, dimensions and, for IndexedViaLuma, 256 palette entries and a luma of each, and while BUSY the phases before
the one that writes a register find it as INIT left it and the phases after it find it written (10_state.md R26, R30, R31, R38,
R39, 44_pixel_assemble.md R191). -/
abbrev ResultCoherent (s : State) : Prop :=
  (∀ h ∈ s.hdr, h.hpal.length = 16) ∧
  (PastInit s →
    (s.status.palPresent = true ↔ s.status.palSrc ≠ .absent) ∧
    s.palCount = s.status.palSrc.count ∧
    s.pal.length = s.palCount.toNat ∧
    (s.status.boundaryValid = true ↔ s.boundary.isSome = true) ∧
    (s.status.imgValid = true ↔ s.status.state = .done) ∧
    (s.status.palSrc = .s5 → ∀ h ∈ s.hdr, h.bpp.toNat ≤ 4) ∧
    (s.status.format = .indexedViaLuma → s.palCount = 256 ∧ s.luma.length = 256) ∧
    (s.status.state = .done → s.status.hdrValid = true ∧ s.hdr.isSome = true ∧ s.dims.isSome = true) ∧
    (isBusy s = true → s.phase ≠ .formatSelect → s.phase ≠ .decode → s.phase ≠ .finish → s.status.palSrc = .absent) ∧
    (isBusy s = true → s.phase ≠ .decode → s.phase ≠ .finish → s.status.format = .rgb24) ∧
    (isBusy s = true → s.phase ≠ .hdrParse → s.hdr.isSome = true) ∧
    (isBusy s = true → s.phase ≠ .hdrParse → s.phase ≠ .validate → s.status.hdrValid = true) ∧
    (isBusy s = true → s.phase ≠ .hdrParse → s.phase ≠ .validate → s.phase ≠ .dims → s.dims.isSome = true))

/-- Every pixel of the finished image is in one of its two conditions, and so is every pixel of the rows assembled so far
(44_pixel_assemble.md R196). -/
def PixelsDefined (s : State) : Prop :=
  (s.status.state = .done ∨ (isBusy s = true ∧ s.phase = .finish) →
    ∀ d, s.dims = some d → ∀ y x, y < d.rows.toNat → x < d.cols.toNat → (s.pix.get (pixKey y x)).isSome = true) ∧
  (isBusy s = true → s.phase = .decode → s.point ≠ .enter →
    ∀ d, s.dims = some d → ∀ y x, y < s.y.toNat → x < d.cols.toNat → (s.pix.get (pixKey y x)).isSome = true)

/-! ## Going on -/

/-- The host wrote every byte of the file (70_reset_and_hazards.md R244). -/
abbrev FileWritten (s : State) : Prop := ∀ a < s.fileLen, (s.file.get a).isSome = true

/-- What the block needs to take its next step: a written file, the registers its phase reads, written (10_state.md R39), and,
up to DIMS, a header that the capacities hold (93 U14). -/
abbrev Ready (s : State) : Prop :=
  s.host = [] ∧ FileWritten s ∧
  (isBusy s = true →
    (s.phase ≠ .init → s.phase ≠ .hdrParse → s.hdr.isSome = true) ∧
    (s.phase ≠ .init → s.phase ≠ .hdrParse → s.phase ≠ .validate → s.phase ≠ .dims → s.dims.isSome = true) ∧
    (s.phase = .palExtract → s.point = .search → ∀ h ∈ s.hdr, versionGate h = true → s.boundary.isSome = true) ∧
    (s.phase = .init ∨ s.phase = .hdrParse → ∀ h, readHeader s = .ok h → holdsHeader s.params h = true) ∧
    (s.phase = .validate ∨ s.phase = .dims → ∀ h ∈ s.hdr, holdsHeader s.params h = true))

/-- The steps of a whole pass: one a unit at most, one a call, one a scanline (40_sequencer_host_commands.md R130). -/
def passCost (len rows planes : Nat) : Nat := (len - 128) + rows * (planes + 1)

/-- The steps a running pass still has. -/
def passLeft (h : Header) (d : Dims) (s : State) : Nat :=
  (s.fileLen - s.cursor) + ((d.rows.toNat - s.y.toNat) * (h.numPlanes.toNat + 1) - s.p.toNat)

/-- A bound on the steps a decode still takes: two passes and a few operations. Before DIMS the loops' bounds are not known and
the header fields' maxima stand for them. -/
def stepBudget (s : State) : Nat :=
  if isBusy s then
    let most := passCost s.fileLen 65536 255
    let whole := match s.hdr, s.dims with
      | some h, some d => passCost s.fileLen d.rows.toNat h.numPlanes.toNat
      | _, _ => 0
    let left := match s.hdr, s.dims with
      | some h, some d => passLeft h d s
      | _, _ => 0
    match s.phase with
    | .init => 2 * most + 13
    | .hdrParse => 2 * most + 12
    | .validate => 2 * most + 11
    | .dims => 2 * most + 10
    | .palExtract =>
      match s.point with
      | .enter => 2 * whole + 9
      | .scan => left + whole + 8
      | .search => whole + 7
    | .formatSelect => whole + 6
    | .decode =>
      match s.point with
      | .enter => whole + 5
      | .scan => left + 4
      | .search => left + 4
    | .finish => 1
  else 0

/-- A dry run and a real pass that stand at the same place of the same file. -/
structure SamePlace (a b : State) : Prop where
  dry : isBusy a = true ∧ a.phase = .palExtract ∧ a.point = .scan
  real : isBusy b = true ∧ b.phase = .decode ∧ b.point = .scan
  quiet : a.host = [] ∧ b.host = []
  header : a.hdr.isSome = true ∧ b.hdr = a.hdr
  dims : a.dims.isSome = true ∧ b.dims = a.dims
  input : b.file = a.file ∧ b.fileLen = a.fileLen
  place : b.cursor = a.cursor ∧ b.n = a.n ∧ b.p = a.p ∧ b.y = a.y

/-! ## The palette's place -/

/-- Which of S1 to S4 succeeds on a file of bytes `f` and length `len` whose stream ends at `e`, and where its 768 bytes begin
(42_palette_extract.md R150, R153 to R156). -/
def paletteChoice (f : Nat → Byte) (len e : Nat) : Option (PalSrc × Nat) :=
  if e < len ∧ f e = 12 ∧ e + 769 ≤ len then some (.s1, e + 1)
  else if e + 768 ≤ len then some (.s2, e)
  else if 768 < len ∧ f (len - 769) = 12 then some (.s3, len - 768)
  else if 768 ≤ len then some (.s4, len - 768)
  else none

/-- The triple of bytes `f` at offset `a` (20_memory.md R63). -/
def tripleAt (f : Nat → Byte) (a : Nat) : Rgb := ⟨f a, f (a + 1), f (a + 2)⟩

/-! ## Outcomes -/

/-- The next state, if there is one. -/
def nextState : Host.Outcome State Fault Refusal → Option State
  | .next s => some s
  | .fault _ => none
  | .refused _ => none

/-- The refusal, if there is one. -/
def refusalOf : Host.Outcome State Fault Refusal → Option Refusal
  | .next _ => none
  | .fault _ => none
  | .refused r => some r

end Sys2Proof.Machine
end

