-- ==== Sys2Proof/Certificates/Slice0/Obligations.lean ====
section
/-! DEFINITION. The statements for the provers. Each cites the rule of spec/ it formalises, or the sections it rests on. -/

open Sys2Proof Sys2Proof.Machine

/-! ## Reset -/

/-- 10_state.md section 10: right after reset STATUS is 0, FILE_LEN 0, CURSOR 128, PAL_COUNT 0, and no other register, palette
entry or pixel gives the host a value (CTRL reads 0). Rests on the reset values the spec decides (D19). -/
def Obligations.ResetGivesOnlyTheNamedValues : Prop :=
  (∀ index, registerWord State.reset index =
    if index = 0 ∨ index = 1 ∨ index = 2 ∨ index = 9 then some 0 else if index = 3 then some 128 else none) ∧
  (∀ y x, pixelPort State.reset y x = none) ∧
  (∀ i : Nat, State.reset.pal[i]? = none ∧ State.reset.luma[i]? = none) ∧
  (∀ a, State.reset.file.get a = none ∧ State.reset.line.get a = none ∧ State.reset.pix.get a = none)

/-- The reset state meets every invariant stated below. -/
def Obligations.ResetMeetsTheInvariants : Prop :=
  Canonical State.reset ∧ InRange State.reset ∧ ErrorCoherent State.reset ∧ IdleIsReset State.reset ∧
  ResultCoherent State.reset ∧ PixelsDefined State.reset

/-! ## Units of the stream -/

/-- R171: a LITERAL appends its byte once and moves CURSOR by 1, in either of its two rows; in the dry run nothing is stored. -/
def Obligations.LiteralAppendsItsByte : Prop :=
  ∀ (i : Instr) (v : Byte) (s : State) (h : Header),
    (i = .literalLow v ∨ i = .literalHigh v) → i.wf = true → s.hdr = some h →
    s.n.toNat < h.bytesPerLine.toNat → s.cursor < s.fileLen →
    ∃ t, exec i s = .next t ∧ t = { s with line := t.line, n := t.n, cursor := t.cursor } ∧
      t.n.toNat = s.n.toNat + 1 ∧ t.cursor = s.cursor + 1 ∧
      (storing s = true → t.line.get (lineKey s.p.toNat s.n.toNat) = some v) ∧
      (storing s = false → t.line = s.line)

/-- R172: a RUN appends min(count, B - N) copies and moves CURSOR by 2, whatever it appends, count 0 included. -/
def Obligations.RunAppendsClippedCopies : Prop :=
  ∀ (c : BitVec 6) (v : Byte) (s : State) (h : Header),
    s.hdr = some h → s.n.toNat ≤ h.bytesPerLine.toNat → s.cursor + 1 < s.fileLen →
    ∃ t, exec (.run c v) s = .next t ∧ t = { s with line := t.line, n := t.n, cursor := t.cursor } ∧
      t.n.toNat = s.n.toNat + min c.toNat (h.bytesPerLine.toNat - s.n.toNat) ∧
      t.n.toNat ≤ h.bytesPerLine.toNat ∧
      t.cursor = s.cursor + 2 ∧
      (storing s = true → ∀ j, j < min c.toNat (h.bytesPerLine.toNat - s.n.toNat) →
        t.line.get (lineKey s.p.toNat (s.n.toNat + j)) = some v) ∧
      (storing s = false → t.line = s.line)

/-- The frame of LITERAL and RUN: N, CURSOR, and the stored copies in LINE; every other byte of every memory, and every other
register, stays. The place stored to is `lineKey P N`, the number of bytes `unitCopies`. -/
def Obligations.UnitsChangeOnlyTheirCopies : Prop :=
  ∀ (i : Instr) (s t : State), isUnitInstr i = true → exec i s = .next t →
    t = { s with line := t.line, n := t.n, cursor := t.cursor } ∧
    (∀ a, t.file.get a = s.file.get a) ∧
    (∀ a, ¬(lineKey s.p.toNat s.n.toNat ≤ a ∧ a < lineKey s.p.toNat s.n.toNat + unitCopies i s) →
      t.line.get a = s.line.get a) ∧
    (storing s = false → ∀ a, t.line.get a = s.line.get a)

/-- R178 (derived there): the dry run and the real pass move CURSOR and N alike, and the dry run stores nothing. -/
def Obligations.DryRunMovesAsTheRealPass : Prop :=
  ∀ (i : Instr) (s : State) (h : Header), isUnitInstr i = true → s.hdr = some h →
    ∃ a b, exec i { s with phase := .palExtract } = .next a ∧ exec i { s with phase := .decode } = .next b ∧
      a.cursor = b.cursor ∧ a.n = b.n ∧ a.line = s.line ∧ a.lineLen = s.lineLen ∧ a.status = s.status

/-- R176: a run header that is the last byte of the file appends nothing, sets CURSOR to L and ends the call, which in the real
pass is short: TRUNC becomes 1 and LINE_LEN is what there was. -/
def Obligations.TruncatedRunEndsTheStream : Prop :=
  ∀ (s : State) (h : Header) (d : Dims) (b : Byte),
    s.host = [] → InPass h d s → InCall h d s → s.n.toNat < h.bytesPerLine.toNat →
    s.cursor + 1 = s.fileLen → s.file.get s.cursor = some b → 192 ≤ b.toNat →
    step s = .next { s with cursor := s.fileLen } ∧
    (s.phase = .decode → ∃ u l, step { s with cursor := s.fileLen } = .next u ∧
      u.status.trunc = true ∧ u.cursor = s.fileLen ∧ u.p.toNat = s.p.toNat + 1 ∧ u.n = 0 ∧
      u.lineLen.get s.p.toNat = some l ∧ l.toNat = min s.n.toNat d.cols.toNat)

/-- 43_rle_decode.md sections 1, 3 and 4: the end of a call of the real pass writes LINE_LEN, trimmed to the columns, and TRUNC if
the call is short, and the next plane's call begins with N = 0; a call of the dry run leaves nothing but that. That closing the call,
TRIM and the next plane are one step is the model's choice (log 4, DESIGN CHOICE). -/
def Obligations.CallEndsTrimmed : Prop :=
  ∀ (s : State) (h : Header) (d : Dims),
    s.host = [] → InPass h d s → InCall h d s →
    (s.n.toNat = h.bytesPerLine.toNat ∨ s.cursor = s.fileLen) →
    ∃ t, step s = .next t ∧ t.p.toNat = s.p.toNat + 1 ∧ t.n = 0 ∧
      t = { s with lineLen := t.lineLen, status := { s.status with trunc := t.status.trunc }, p := t.p, n := t.n } ∧
      (s.phase = .decode →
        (∃ l, t.lineLen.get s.p.toNat = some l ∧ l.toNat = min s.n.toNat d.cols.toNat) ∧
        (∀ q, q ≠ s.p.toNat → t.lineLen.get q = s.lineLen.get q) ∧
        (t.status.trunc = true ↔ s.status.trunc = true ∨ s.n.toNat < h.bytesPerLine.toNat)) ∧
      (s.phase = .palExtract → t.lineLen = s.lineLen ∧ t.status.trunc = s.status.trunc)

/-- R177 (derived there): within a pass CURSOR changes only by + 1, by + 2, or to L from L - 1. -/
def Obligations.CursorOnlyAdvances : Prop :=
  ∀ (s t : State) (h : Header) (d : Dims),
    s.host = [] → InPass h d s → s.cursor ≤ s.fileLen → step s = .next t →
    s.cursor ≤ t.cursor ∧ t.cursor ≤ s.fileLen ∧
    (t.cursor = s.cursor ∨ t.cursor = s.cursor + 1 ∨ t.cursor = s.cursor + 2)

/-! ## Encodings -/

/-- The decoder reads back every well-formed instruction, whatever its operands. -/
def Obligations.DecodeInvertsEncode : Prop :=
  ∀ i : Instr, i.wf = true → decode (encode i) = .ok i

/-- Each code has one meaning: what the decoder reads from it is well formed and encodes to it. -/
def Obligations.EncodeInvertsDecode : Prop :=
  ∀ (c : Code) (i : Instr), decode c = .ok i → i.wf = true ∧ encode i = c

/-- R93: one byte tells the format and the length of a unit: 192 and above a RUN of 2 bytes, whose value byte may be any byte;
below 192 a LITERAL of 1 byte. -/
def Obligations.FirstByteTellsTheUnit : Prop :=
  ∀ (b v : Byte) (rest : List Byte),
    (192 ≤ b.toNat → ∃ c : BitVec 6, c.toNat = b.toNat - 192 ∧ decodeUnit (b :: v :: rest) = .ok (.run c v, rest)) ∧
    (b.toNat < 192 → ∃ i, (i = .literalLow b ∨ i = .literalHigh b) ∧ decodeUnit (b :: v :: rest) = .ok (i, v :: rest))

/-- R98: the format table, row by row, over every key. -/
def Obligations.KeySelectsItsRow : Prop :=
  ∀ (palPresent : Bool) (np bpp : Byte),
    decodeKey (formatKey palPresent np bpp) =
      if np.toNat = 3 ∧ bpp.toNat = 8 then .fmtRgb24 palPresent
      else if np.toNat = 1 ∧ bpp.toNat = 8 ∧ palPresent = true then .fmtIndexedViaLuma
      else if np.toNat = 1 ∧ bpp.toNat = 8 then .fmtGray8
      else .fmtFallback palPresent np bpp

/-- Words written out from the spec's encodings decode to the instructions they stand for. -/
def Obligations.SpecWordsDecode : Prop :=
  decode (.unit [0b00101000]) = .ok (.literalLow 40) ∧
  decode (.unit [0b10111111]) = .ok (.literalHigh 191) ∧
  decode (.unit [0b11000011, 0b01111111]) = .ok (.run 3 127) ∧
  decode (.unit [0b11000010, 0b11000101]) = .ok (.run 2 0xC5) ∧
  decode (.unit [0b11000101]) = .error .truncatedRun ∧
  decode (.key 0b10000001100001000) = .ok (.fmtRgb24 true) ∧
  decode (.key 0b10000000100001000) = .ok .fmtIndexedViaLuma ∧
  decode (.key 0b00000000100001000) = .ok .fmtGray8 ∧
  decode (.key 0b00000010000000001) = .ok (.fmtFallback false 4 1) ∧
  decode (.ctrl 0x5) = .ok (.start 1) ∧
  decode (.ctrl 0x3) = .ok (.reset true 0) ∧
  decode (.ctrl 0xFFFFFFFC) = .ok (.ctrlNop 0x3FFFFFFF)

/-! ## Host commands -/

/-- R120, D18: START begins a decode in IDLE, DONE and ERROR, and is ignored in BUSY; FILE and FILE_LEN stand as they are. That its own
step changes nothing but STATE, PHASE and `point`, so that old flags and results stand until INIT's step, is the model's choice
(log 4, DESIGN CHOICE). -/
def Obligations.StartBeginsADecode : Prop :=
  ∀ (ignored : BitVec 30) (s : State),
    (s.status.state ≠ .busy → ∃ t, exec (.start ignored) s = .next t ∧ t.status.state = .busy ∧ t.phase = .init ∧
      t = { s with status := { s.status with state := .busy }, phase := .init, point := .enter } ∧
      (∀ a, t.file.get a = s.file.get a)) ∧
    (s.status.state = .busy → exec (.start ignored) s = .next s)

/-- R121: RESET, in any state, BUSY included, gives the reset values; FILE is not touched. -/
def Obligations.ResetCommandInEveryState : Prop :=
  ∀ (startBit : Bool) (ignored : BitVec 30) (s : State),
    ∃ t, exec (.reset startBit ignored) s = .next t ∧ t.status.word = 0 ∧ t.fileLen = 0 ∧ t.cursor = 128 ∧ t.palCount = 0 ∧
      t.boundary = none ∧ t.hdr = none ∧ t.dims = none ∧ t.pal = [] ∧ t.luma = [] ∧ t.line = [] ∧ t.lineLen = [] ∧ t.pix = [] ∧
      (∀ a, t.file.get a = s.file.get a) ∧ t.host = s.host

/-- R99: a CTRL word with bits 1:0 = 00 does nothing. -/
def Obligations.NoCommandChangesNothing : Prop :=
  ∀ (ignored : BitVec 30) (s : State),
    exec (.ctrlNop ignored) s = .next s ∧ ∀ w : Word, w.toNat % 4 = 0 → ∃ ig, decodeCtrl w = .ctrlNop ig

/-- R99, R25: a word written to CTRL acts by its two low bits alone, and RESET wins when both are set. -/
def Obligations.CtrlWriteObeysItsTwoBits : Prop :=
  ∀ (s : State) (w : Word) (rest : List HostMove),
    s.host = ⟨.after 0, .writeReg 0 w⟩ :: rest →
    (2 ≤ w.toNat % 4 → ∃ st ig, step s = exec (.reset st ig) { s with host := rest }) ∧
    (w.toNat % 4 = 1 → ∃ ig, step s = exec (.start ig) { s with host := rest }) ∧
    (w.toNat % 4 = 0 → step s = .next { s with host := rest })

/-! ## The format table -/

/-- R190: FORMAT_SELECT chooses by plane count, depth and the presence of a palette; no other operation after INIT changes FORMAT and
no later one comes back to FORMAT_SELECT, so the choice is made once per decode; and every row is assembled by the format chosen,
which in this model is one step of the table's row for it (log 14, DESIGN CHOICE). -/
def Obligations.FormatSelectedOnce : Prop :=
  (∀ (s : State) (h : Header),
    s.host = [] → isBusy s = true → s.phase = .formatSelect → s.hdr = some h →
    ∃ t, step s = .next t ∧ t.phase = .decode ∧
      t.status = { s.status with format :=
        if h.numPlanes.toNat = 3 ∧ h.bpp.toNat = 8 then .rgb24
        else if h.numPlanes.toNat = 1 ∧ h.bpp.toNat = 8 ∧ s.status.palPresent = true then .indexedViaLuma
        else if h.numPlanes.toNat = 1 ∧ h.bpp.toNat = 8 then .gray8
        else .fallback }) ∧
  (∀ s t : State, s.host = [] → isBusy s = true → s.phase ≠ .init → s.phase ≠ .formatSelect → step s = .next t →
    t.status.format = s.status.format ∧
    (s.phase = .decode ∨ s.phase = .finish → t.phase = .decode ∨ t.phase = .finish)) ∧
  (∀ (s : State) (h : Header) (d : Dims), s.host = [] → isBusy s = true → s.phase = .decode → s.point ≠ .enter →
    s.hdr = some h → s.dims = some d → s.y.toNat < d.rows.toNat → h.numPlanes.toNat ≤ s.p.toNat →
    ∃ i, formatOf i = some s.status.format ∧ step s = exec i s)

/-- Every row of the format table completes at its selection: FORMAT is its code, the real pass is next, and nothing else changes
but LUMA, and that only for IndexedViaLuma. -/
def Obligations.FormatRowsComplete : Prop :=
  ∀ (i : Instr) (s : State), isFormatInstr i = true → s.phase ≠ .decode →
    ∃ t f, exec i s = .next t ∧ formatOf i = some f ∧
      t = { s with status := { s.status with format := f }, luma := t.luma, phase := .decode, point := .enter } ∧
      (i ≠ .fmtIndexedViaLuma → t.luma = s.luma) ∧
      (∀ a, t.file.get a = s.file.get a ∧ t.line.get a = s.line.get a ∧ t.pix.get a = s.pix.get a)

/-- R191, R199: LUMA_BUILD gives each of the 256 palette entries its luma `S / 1000`, to the nearest, and leaves the palette: with
LUMA_TIE = half_up, which is R6's value, `(S + 500) div 1000`; with half_even (93 U6) an exact half goes to the even neighbour. -/
def Obligations.LumaTableBuilt : Prop :=
  ∀ s : State, s.phase ≠ .decode → s.pal.length = 256 →
    ∃ t, exec .fmtIndexedViaLuma s = .next t ∧ t.status.format = .indexedViaLuma ∧ t.pal = s.pal ∧ t.luma.length = 256 ∧
      ∀ i, i < 256 → ∃ e l, s.pal[i]? = some e ∧ t.luma[i]? = some l ∧
        let sum := 299 * e.r.toNat + 587 * e.g.toNat + 114 * e.b.toNat
        (s.params.lumaTie = .halfUp → l.toNat = (sum + 500) / 1000) ∧
        (s.params.lumaTie = .halfEven → l.toNat =
          if 500 < sum % 1000 ∨ (sum % 1000 = 500 ∧ sum / 1000 % 2 = 1) then sum / 1000 + 1 else sum / 1000)

/-- R198, R199 (derived there): under both conventions for a half the rounded sum fits a byte without the clamp, a grey entry maps
to itself, and off the halves the conventions agree. -/
def Obligations.LumaNeedsNoClamp : Prop :=
  ∀ (tie : Config.LumaTie) (e : Rgb),
    lumaSum e ≤ 255000 ∧ (lumaOf tie e).toNat = lumaRound tie (lumaSum e) ∧
    (∀ v : Byte, e = ⟨v, v, v⟩ → lumaOf tie e = v) ∧
    (lumaSum e % 1000 ≠ 500 → lumaOf tie e = lumaOf .halfUp e)

/-- R192: a row of three planes: red, green and blue from planes 0, 1, 2; absent when any of the three bytes is missing. -/
def Obligations.Rgb24RowFromThreePlanes : Prop :=
  ∀ (palPresent : Bool) (s : State) (d : Dims) (l0 l1 l2 : BitVec 16),
    s.phase = .decode → s.dims = some d →
    s.lineLen.get 0 = some l0 → s.lineLen.get 1 = some l1 → s.lineLen.get 2 = some l2 →
    ∃ t, exec (.fmtRgb24 palPresent) s = .next t ∧ ∀ x, x < d.cols.toNat →
      (∀ r g b, x < l0.toNat → x < l1.toNat → x < l2.toNat →
        s.line.get (lineKey 0 x) = some r → s.line.get (lineKey 1 x) = some g → s.line.get (lineKey 2 x) = some b →
        t.pix.get (pixKey s.y.toNat x) = some (some ⟨r, g, b⟩)) ∧
      (l0.toNat ≤ x ∨ l1.toNat ≤ x ∨ l2.toNat ≤ x → t.pix.get (pixKey s.y.toNat x) = some none)

/-- R193: an indexed row: the pixel byte is an index into LUMA and the pixel is that grey. -/
def Obligations.IndexedRowThroughLuma : Prop :=
  ∀ (s : State) (d : Dims) (l0 : BitVec 16),
    s.phase = .decode → s.dims = some d → s.lineLen.get 0 = some l0 → s.luma.length = 256 →
    ∃ t, exec .fmtIndexedViaLuma s = .next t ∧ ∀ x, x < d.cols.toNat →
      (∀ v, x < l0.toNat → s.line.get (lineKey 0 x) = some v →
        ∃ g, s.luma[v.toNat]? = some g ∧ t.pix.get (pixKey s.y.toNat x) = some (some ⟨g, g, g⟩)) ∧
      (l0.toNat ≤ x → t.pix.get (pixKey s.y.toNat x) = some none)

/-- R194: a grey row: each byte is the grey value. -/
def Obligations.Gray8RowFromPlaneZero : Prop :=
  ∀ (s : State) (d : Dims) (l0 : BitVec 16),
    s.phase = .decode → s.dims = some d → s.lineLen.get 0 = some l0 →
    ∃ t, exec .fmtGray8 s = .next t ∧ ∀ x, x < d.cols.toNat →
      (∀ v, x < l0.toNat → s.line.get (lineKey 0 x) = some v →
        t.pix.get (pixKey s.y.toNat x) = some (some ⟨v, v, v⟩)) ∧
      (l0.toNat ≤ x → t.pix.get (pixKey s.y.toNat x) = some none)

/-- R195: the fallback's row: plane 0 as grey whatever the depth, and every pixel absent when there is no plane. -/
def Obligations.FallbackRowIsBestEffort : Prop :=
  ∀ (palPresent : Bool) (np bpp : Byte) (s : State) (d : Dims),
    s.phase = .decode → s.dims = some d →
    ∃ t, exec (.fmtFallback palPresent np bpp) s = .next t ∧ ∀ x, x < d.cols.toNat →
      (np.toNat = 0 → t.pix.get (pixKey s.y.toNat x) = some none) ∧
      (∀ l0, 1 ≤ np.toNat → s.lineLen.get 0 = some l0 →
        (∀ v, x < l0.toNat → s.line.get (lineKey 0 x) = some v →
          t.pix.get (pixKey s.y.toNat x) = some (some ⟨v, v, v⟩)) ∧
        (l0.toNat ≤ x → t.pix.get (pixKey s.y.toNat x) = some none))

/-- The frame of a row: the pixels of row Y, and the loop's registers for the next scanline; nothing else, and every grey policy
gives three equal components. The pixels written are at `pixKey Y x` for the columns `x` of the image. -/
def Obligations.RowsChangeOnlyTheirPixels : Prop :=
  ∀ (i : Instr) (s t : State), isFormatInstr i = true → s.phase = .decode → exec i s = .next t →
    t = { s with pix := t.pix, y := s.y + 1, p := 0, n := 0 } ∧
    (∀ a, t.file.get a = s.file.get a) ∧
    (∀ a d, s.dims = some d → (∀ x, x < d.cols.toNat → a ≠ pixKey s.y.toNat x) → t.pix.get a = s.pix.get a) ∧
    (∀ d x e, s.dims = some d → x < d.cols.toNat → (∀ p, i ≠ .fmtRgb24 p) →
      t.pix.get (pixKey s.y.toNat x) = some (some e) → e.r = e.g ∧ e.g = e.b)

/-! ## The sequence -/

/-- R124: INIT clears every flag but STATE, sets CURSOR to 128 and takes every result its value; FILE_LEN is not touched. -/
def Obligations.InitClearsEveryResult : Prop :=
  ∀ s : State, s.host = [] → isBusy s = true → s.phase = .init →
    ∃ t, step s = .next t ∧ t.status.word = 1 ∧ t.palCount = 0 ∧ t.cursor = 128 ∧ t.boundary = none ∧ t.hdr = none ∧
      t.dims = none ∧ t.pal = [] ∧ t.luma = [] ∧ t.pix = [] ∧ t.fileLen = s.fileLen ∧ (∀ a, t.file.get a = s.file.get a)

/-- R124, R38, R21: after INIT nothing is left of what the block held before it but the working registers that are written before
they are read: two states with the same parameters and the same file agree. -/
def Obligations.InitForgetsThePast : Prop :=
  ∀ a b s t : State, a.host = [] → b.host = [] → isBusy a = true → isBusy b = true → a.phase = .init → b.phase = .init →
    a.params = b.params → a.file = b.file → a.fileLen = b.fileLen → step a = .next s → step b = .next t →
    t = { s with line := t.line, lineLen := t.lineLen, y := t.y, p := t.p, n := t.n, rdata := t.rdata }

/-- R141: HDR_PARSE raises InvalidHeader exactly when the file has fewer than 128 bytes, whatever its bytes, written or not. -/
def Obligations.ShortFileIsInvalidHeader : Prop :=
  ∀ s : State, s.host = [] → isBusy s = true → s.phase = .hdrParse →
    (s.fileLen < 128 → ∃ t, step s = .next t ∧ t.status.state = .error ∧ t.status.err = .invalidHeader ∧
      ∀ f, step { s with file := f } = .next { t with file := f }) ∧
    (128 ≤ s.fileLen → ∀ t, step s = .next t → t.status.state = .busy ∧ t.status = s.status)

/-- R142: the header's fields stand at their offsets, 16-bit fields little-endian; bytes 64 and 74 to 127 are not read, nor need
they be written. -/
def Obligations.HeaderFieldsExtracted : Prop :=
  ∀ (s : State) (f : Nat → Byte),
    s.host = [] → isBusy s = true → s.phase = .hdrParse → 128 ≤ s.fileLen →
    (∀ a, a < 74 → a ≠ 64 → s.file.get a = some (f a)) →
    ∃ t h, step s = .next t ∧ t.phase = .validate ∧ t.hdr = some h ∧
      h.manufacturer = f 0 ∧ h.version = f 1 ∧ h.encoding = f 2 ∧ h.bpp = f 3 ∧
      h.xmin.toNat = (f 4).toNat + 256 * (f 5).toNat ∧ h.ymin.toNat = (f 6).toNat + 256 * (f 7).toNat ∧
      h.xmax.toNat = (f 8).toNat + 256 * (f 9).toNat ∧ h.ymax.toNat = (f 10).toNat + 256 * (f 11).toNat ∧
      h.hdpi.toNat = (f 12).toNat + 256 * (f 13).toNat ∧ h.vdpi.toNat = (f 14).toNat + 256 * (f 15).toNat ∧
      h.hpal.length = 16 ∧ (∀ i, i < 16 → h.hpal[i]? = some (tripleAt f (16 + 3 * i))) ∧
      h.numPlanes = f 65 ∧ h.bytesPerLine.toNat = (f 66).toNat + 256 * (f 67).toNat ∧
      h.paletteInfo.toNat = (f 68).toNat + 256 * (f 69).toNat ∧ h.hscreen.toNat = (f 70).toNat + 256 * (f 71).toNat ∧
      h.vscreen.toNat = (f 72).toNat + 256 * (f 73).toNat

/-- R143: the file is a PCX file exactly when the manufacturer byte is 10; nothing else is validated. -/
def Obligations.ManufacturerByteDecides : Prop :=
  ∀ (s : State) (h : Header), s.host = [] → isBusy s = true → s.phase = .validate → s.hdr = some h →
    ∃ t, step s = .next t ∧
      (h.manufacturer.toNat = 10 → t = { s with status := { s.status with hdrValid := true }, phase := .dims, point := .enter }) ∧
      (h.manufacturer.toNat ≠ 10 → t.status.state = .error ∧ t.status.err = .notAPcxFile)

/-- R224: a fatal error records its code and withdraws every result; it is raised by HDR_PARSE or VALIDATE and by nothing else. -/
def Obligations.FatalErrorWithdrawsResults : Prop :=
  ∀ s t : State, s.host = [] → isBusy s = true → step s = .next t → t.status.state = .error →
    ((s.phase = .hdrParse ∧ t.status.err = .invalidHeader) ∨ (s.phase = .validate ∧ t.status.err = .notAPcxFile)) ∧
    t.status.hdrValid = false ∧ t.status.palPresent = false ∧ t.status.imgValid = false ∧ t.status.boundaryValid = false ∧
    t.hdr = none ∧ t.dims = none ∧ (∀ a, t.file.get a = s.file.get a)

/-- R144: width and height over the integers, not modulo 65536, in 18 signed bits; columns and rows their positive parts. With the
capacities of R6 this is so for every header; with others, for every header they hold (D30; 93 U14). -/
def Obligations.DimensionsAreExact : Prop :=
  ∀ (s : State) (h : Header), s.host = [] → isBusy s = true → s.phase = .dims → s.hdr = some h →
    (s.params = Config.Params.standard ∨
      (h.numPlanes.toNat * h.bytesPerLine.toNat ≤ s.params.lineCapacity ∧
        (dimsOf h).rows.toNat * (dimsOf h).cols.toNat ≤ s.params.pixCapacity)) →
    ∃ t d, step s = .next t ∧ t.dims = some d ∧
      d.width.toInt = (h.xmax.toNat : Int) - h.xmin.toNat + 1 ∧
      d.height.toInt = (h.ymax.toNat : Int) - h.ymin.toNat + 1 ∧
      (d.cols.toNat : Int) = max d.width.toInt 0 ∧ (d.rows.toNat : Int) = max d.height.toInt 0 ∧
      (t.status.dimBad = true ↔ d.width.toInt < 1 ∨ d.height.toInt < 1)

/-- R151, R152, R126: the dry run is made exactly when the version is at least 5, from CURSOR = 128; at its end BOUNDARY is CURSOR.
When the gate fails BOUNDARY keeps no value. The real pass begins as the dry run does, at CURSOR = 128 with Y, P and N at 0. -/
def Obligations.DryRunOnlyPastTheGate : Prop :=
  ∀ s : State, s.host = [] → isBusy s = true →
    (∀ h, s.phase = .palExtract → s.hdr = some h →
      (s.point = .enter → 5 ≤ h.version.toNat →
        step s = .next { s with cursor := 128, y := 0, p := 0, n := 0, point := .scan }) ∧
      (s.point = .enter → h.version.toNat < 5 → step s = .next { s with point := .search }) ∧
      (∀ d, s.point = .scan → s.dims = some d → d.rows.toNat ≤ s.y.toNat →
        step s = .next { s with
          boundary := some s.cursor, status := { s.status with boundaryValid := true }, point := .search })) ∧
    (s.phase = .decode → s.point = .enter →
      step s = .next { s with cursor := 128, y := 0, p := 0, n := 0, point := .scan })

/-- R150, R153 to R159, R161: the strategies in their order, each only if every earlier one failed: S1 to S4 behind the version
gate, then the header's table, then none; PAL, PAL_COUNT, PAL_PRESENT and PAL_SRC are those of the one that succeeds. Below version
5, where BOUNDARY has no value (R151), S1 to S4 are not tried. -/
def Obligations.StrategiesInOrder : Prop :=
  ∀ (s : State) (h : Header) (f : Nat → Byte) (e : Nat),
    s.host = [] → isBusy s = true → s.phase = .palExtract → s.point = .search → s.hdr = some h → h.hpal.length = 16 →
    (5 ≤ h.version.toNat → s.boundary = some e) → (∀ a, a < s.fileLen → s.file.get a = some (f a)) → s.pal = [] →
    ∃ t, step s = .next t ∧ t.phase = .formatSelect ∧
      match (if 5 ≤ h.version.toNat then paletteChoice f s.fileLen e else none) with
      | some (src, base) =>
        t.status.palSrc = src ∧ t.status.palPresent = true ∧ t.palCount = 256 ∧ t.pal.length = 256 ∧
          ∀ i, i < 256 → t.pal[i]? = some (tripleAt f (base + 3 * i))
      | none =>
        if h.bpp.toNat ≤ 4 then
          t.status.palSrc = .s5 ∧ t.status.palPresent = true ∧ t.palCount = 16 ∧ t.pal = h.hpal
        else t.status.palSrc = .absent ∧ t.status.palPresent = false ∧ t.palCount = 0 ∧ t.pal = []

/-- R160 a (derived there): from version 5 on a file of 768 bytes or more always has a 256-colour palette, and one-plane 8-bit
images of it are IndexedViaLuma, never Gray8. -/
def Obligations.LongVersionFiveFileHasPalette : Prop :=
  ∀ (s : State) (h : Header),
    s.host = [] → isBusy s = true → s.phase = .palExtract → s.point = .search → s.hdr = some h → s.boundary.isSome = true →
    FileWritten s → 5 ≤ h.version.toNat → 768 ≤ s.fileLen →
    ∃ t u, step s = .next t ∧ t.status.palPresent = true ∧ t.palCount = 256 ∧ t.pal.length = 256 ∧
      t.status.palSrc ≠ .absent ∧ t.status.palSrc ≠ .s5 ∧ step t = .next u ∧
      (h.numPlanes.toNat = 1 → h.bpp.toNat = 8 → u.status.format = .indexedViaLuma)

/-- R127: FINISH makes the image valid and the decode DONE; CURSOR keeps the final offset of the real pass. -/
def Obligations.FinishReportsDone : Prop :=
  ∀ s : State, s.host = [] → isBusy s = true → s.phase = .finish →
    ∃ t, step s = .next t ∧ t.status.state = .done ∧ t.status.imgValid = true ∧ t.cursor = s.cursor ∧
      t = { s with status := { s.status with state := .done, imgValid := true } }

/-! ## A step runs the decoded instruction -/

/-- When the bytes at CURSOR decode to a unit and a pass asks for one, the step is that unit's execution; a host move that lands
later only counts down, or waits, beside it: how the host's moves stand beside the block's steps is the model's choice (log 5, DESIGN
CHOICE). -/
def Obligations.StepRunsTheUnit : Prop :=
  ∀ (s : State) (h : Header) (d : Dims) (bytes : List Byte) (i : Instr),
    InPass h d s → InCall h d s → s.n.toNat < h.bytesPerLine.toNat →
    s.cursor + bytes.length ≤ s.fileLen →
    (∀ j (hj : j < bytes.length), s.file.get (s.cursor + j) = some bytes[j]) →
    decode (.unit bytes) = .ok i →
    (s.host = [] → step s = exec i s) ∧
    (∀ k op rest, s.host = ⟨.after (k + 1), op⟩ :: rest → step s = exec i { s with host := ⟨.after k, op⟩ :: rest }) ∧
    (∀ op rest, s.host = ⟨.notBusy, op⟩ :: rest → step s = exec i s)

/-- At FORMAT_SELECT the step runs the row the key decodes to; at the end of a scanline of the real pass it runs the row FORMAT
names, with the header's own plane count and depth (R190, R192 to R195). That a row of the table runs at both these points is the
model's choice (log 14, DESIGN CHOICE). -/
def Obligations.StepRunsTheFormatRow : Prop :=
  ∀ (s : State) (h : Header), s.host = [] → isBusy s = true → s.hdr = some h →
    (s.phase = .formatSelect → step s = exec (decodeKey (formatKey s.status.palPresent h.numPlanes h.bpp)) s) ∧
    (∀ d, s.phase = .decode → s.point ≠ .enter → s.dims = some d → s.y.toNat < d.rows.toNat →
      h.numPlanes.toNat ≤ s.p.toNat →
      step s = exec
        (match s.status.format with
          | .rgb24 => .fmtRgb24 s.status.palPresent
          | .indexedViaLuma => .fmtIndexedViaLuma
          | .gray8 => .fmtGray8
          | .fallback => .fmtFallback s.status.palPresent h.numPlanes h.bpp) s)

/-- A word the host writes to CTRL is decoded and run at once, in every state; the move is off the list. The clause on a move that
waits until STATE is not BUSY rests on the model's choice of how the host's moves are given (log 5, DESIGN CHOICE). -/
def Obligations.StepRunsTheCommand : Prop :=
  ∀ (s : State) (w : Word) (i : Instr) (rest : List HostMove), decode (.ctrl w) = .ok i →
    (s.host = ⟨.after 0, .writeReg 0 w⟩ :: rest → step s = exec i { s with host := rest }) ∧
    (isBusy s = false → s.host = ⟨.notBusy, .writeReg 0 w⟩ :: rest → step s = exec i { s with host := rest })

/-- R129, R241: outside BUSY the block does nothing and holds its results. -/
def Obligations.BlockRestsOutsideBusy : Prop :=
  ∀ s : State, isBusy s = false → s.host = [] → step s = .next s

/-! ## The host's side -/

/-- R26: the fields of the STATUS word stand at their bits under the codes of the rule's table, and bits 31:15 read 0. -/
def Obligations.StatusFieldsAtTheirBits : Prop :=
  ∀ t : Status,
    (t.word.extractLsb' 0 2).toNat = (match t.state with
      | .idle => 0
      | .busy => 1
      | .done => 2
      | .error => 3) ∧
    (t.word.extractLsb' 2 2).toNat = (match t.err with
      | .noError => 0
      | .invalidHeader => 1
      | .notAPcxFile => 2) ∧
    t.word.getLsbD 4 = t.hdrValid ∧ t.word.getLsbD 5 = t.palPresent ∧ t.word.getLsbD 6 = t.imgValid ∧
    t.word.getLsbD 7 = t.trunc ∧ t.word.getLsbD 8 = t.dimBad ∧ t.word.getLsbD 9 = t.boundaryValid ∧
    (t.word.extractLsb' 10 2).toNat = (match t.format with
      | .rgb24 => 0
      | .indexedViaLuma => 1
      | .gray8 => 2
      | .fallback => 3) ∧
    (t.word.extractLsb' 12 3).toNat = (match t.palSrc with
      | .absent => 0
      | .s1 => 1
      | .s2 => 2
      | .s3 => 3
      | .s4 => 4
      | .s5 => 5) ∧
    t.word.extractLsb' 15 17 = 0

/-- R22, R25, R28, R31, R39: what each index of the register map reads outside BUSY: CTRL 0, WIDTH and HEIGHT sign-extended, the other
registers with their upper bits zero, a triple as `{R, G, B}` with R in bits 23:16; no value where the register has none, and at the
unassigned indices. An offset reads as itself where 32 bits hold it, as they hold every one the host can present (log 1). -/
def Obligations.RegistersReadExtended : Prop :=
  ∀ s : State,
    registerWord s 0 = some 0 ∧ registerWord s 1 = some s.status.word ∧
    (s.fileLen < 2 ^ 32 → ∃ w, registerWord s 2 = some w ∧ w.toNat = s.fileLen) ∧
    (s.cursor < 2 ^ 32 → ∃ w, registerWord s 3 = some w ∧ w.toNat = s.cursor) ∧
    (∀ e, s.boundary = some e → e < 2 ^ 32 → ∃ w, registerWord s 4 = some w ∧ w.toNat = e) ∧
    (s.boundary = none → registerWord s 4 = none) ∧
    (∀ d, s.dims = some d →
      (∃ w, registerWord s 5 = some w ∧ w.toInt = d.width.toInt) ∧
      (∃ w, registerWord s 6 = some w ∧ w.toInt = d.height.toInt) ∧
      (∃ w, registerWord s 7 = some w ∧ w.toNat = d.cols.toNat) ∧
      (∃ w, registerWord s 8 = some w ∧ w.toNat = d.rows.toNat)) ∧
    (s.dims = none → ∀ k, 5 ≤ k → k ≤ 8 → registerWord s k = none) ∧
    (∃ w, registerWord s 9 = some w ∧ w.toNat = s.palCount.toNat) ∧
    (∀ h, s.hdr = some h →
      (∀ r ∈ [(16, h.manufacturer.toNat), (17, h.version.toNat), (18, h.encoding.toNat), (19, h.bpp.toNat),
          (20, h.xmin.toNat), (21, h.ymin.toNat), (22, h.xmax.toNat), (23, h.ymax.toNat),
          (24, h.hdpi.toNat), (25, h.vdpi.toNat), (26, h.numPlanes.toNat), (27, h.bytesPerLine.toNat),
          (28, h.paletteInfo.toNat), (29, h.hscreen.toNat), (30, h.vscreen.toNat)],
        ∃ w, registerWord s r.1 = some w ∧ w.toNat = r.2) ∧
      (∀ i e, i < 16 → h.hpal[i]? = some e →
        ∃ w, registerWord s (32 + i) = some w ∧ w.toNat = 65536 * e.r.toNat + 256 * e.g.toNat + e.b.toNat)) ∧
    (s.hdr = none → ∀ k, (16 ≤ k ∧ k ≤ 30) ∨ (32 ≤ k ∧ k ≤ 47) → registerWord s k = none) ∧
    (∀ i, i < 256 →
      (∀ e, s.pal[i]? = some e →
        ∃ w, registerWord s (256 + i) = some w ∧ w.toNat = 65536 * e.r.toNat + 256 * e.g.toNat + e.b.toNat) ∧
      (s.pal[i]? = none → registerWord s (256 + i) = none)) ∧
    (∀ k, (10 ≤ k ∧ k ≤ 15) ∨ k = 31 ∨ (48 ≤ k ∧ k ≤ 255) ∨ 512 ≤ k → registerWord s k = none)

/-- R39: a host read outside BUSY gives the register's value, and is refused where the register has none. -/
def Obligations.HostReadsAValueOrIsRefused : Prop :=
  ∀ (s : State) (index : Nat) (rest : List HostMove), isBusy s = false →
    s.host = ⟨.after 0, .readReg index⟩ :: rest →
    (∀ w, registerWord s index = some w → step s = .next { s with host := rest, rdata := some (.word w) }) ∧
    (registerWord s index = none → step s = .refused .hostReadNoValue)

/-- R34: the pixel port gives a present pixel's word `{R, G, B}` packed as in R28, an absent one's cleared present bit and no word, and
no value outside the image or while IMG_VALID = 0. -/
def Obligations.PixelPortReads : Prop :=
  ∀ (s : State) (y x : Nat) (rest : List HostMove), isBusy s = false →
    s.host = ⟨.after 0, .readPixel y x⟩ :: rest →
    (∀ d, s.dims = some d → s.status.imgValid = true → y < d.rows.toNat → x < d.cols.toNat →
      (∀ e, s.pix.get (pixKey y x) = some (some e) →
        ∃ w : BitVec 24, w.toNat = 65536 * e.r.toNat + 256 * e.g.toNat + e.b.toNat ∧
          step s = .next { s with host := rest, rdata := some (.pixel (some w)) }) ∧
      (s.pix.get (pixKey y x) = some none → step s = .next { s with host := rest, rdata := some (.pixel none) })) ∧
    (s.status.imgValid = false → step s = .refused .hostReadNoValue) ∧
    (∀ d, s.dims = some d → d.rows.toNat ≤ y ∨ d.cols.toNat ≤ x → step s = .refused .hostReadNoValue)

/-- R70 c, R246: while BUSY the host reads STATE and nothing else, and may not write FILE or FILE_LEN: the model refuses those
moves (93 U8). -/
def Obligations.BusyHostMayReadOnlyState : Prop :=
  ∀ (s : State) (rest : List HostMove), isBusy s = true →
    (s.host = ⟨.after 0, .readReg 1⟩ :: rest → step s = .next { s with host := rest, rdata := some .statusBusy }) ∧
    (∀ index, index ≠ 1 → s.host = ⟨.after 0, .readReg index⟩ :: rest → step s = .refused .hostReadWhileBusy) ∧
    (∀ y x, s.host = ⟨.after 0, .readPixel y x⟩ :: rest → step s = .refused .hostReadWhileBusy) ∧
    (∀ a b, s.host = ⟨.after 0, .writeFile a b⟩ :: rest → step s = .refused .hostWriteWhileBusy) ∧
    (∀ w, s.host = ⟨.after 0, .writeReg 2 w⟩ :: rest → step s = .refused .hostWriteWhileBusy)

/-- R72, R246: the block never writes FILE, and FILE_LEN does not change while it works; no instruction changes a byte of FILE. -/
def Obligations.BlockNeverWritesTheFile : Prop :=
  (∀ s t : State, (takeTurn s).1 = none → step s = .next t → t.fileLen = s.fileLen ∧ ∀ a, t.file.get a = s.file.get a) ∧
  (∀ (i : Instr) (s t : State), exec i s = .next t → ∀ a, t.file.get a = s.file.get a)

/-- R34, R247: outside BUSY every result is stable until the host writes CTRL. R24, R70 a: the host's writes of FILE and FILE_LEN take
effect there, those that ADDR_W bits hold (R244, 93 U15; the refusal of the others is log 8's); R22, U17: a write to any other index
has no effect, at any time. -/
def Obligations.ResultsStayUntilACommand : Prop :=
  ∀ s : State,
    (isBusy s = false →
      (∀ t, (∀ w, (takeTurn s).1 ≠ some (.writeReg 0 w)) → step s = .next t →
        t = { s with fileLen := t.fileLen, file := t.file, host := t.host, rdata := t.rdata }) ∧
      (∀ a b rest, s.host = ⟨.after 0, .writeFile a b⟩ :: rest →
        (a < 2 ^ s.params.addrW → ∃ t, step s = .next t ∧ t = { s with host := rest, file := t.file } ∧
          t.file.get a = some b ∧ ∀ c, c ≠ a → t.file.get c = s.file.get c) ∧
        (2 ^ s.params.addrW ≤ a → step s = .refused .hostFileTooLong)) ∧
      (∀ w rest, s.host = ⟨.after 0, .writeReg 2 w⟩ :: rest →
        (w.toNat < 2 ^ s.params.addrW → step s = .next { s with host := rest, fileLen := w.toNat }) ∧
        (2 ^ s.params.addrW ≤ w.toNat → step s = .refused .hostFileTooLong))) ∧
    (∀ k w rest, s.host = ⟨.after 0, .writeReg k w⟩ :: rest → k ≠ 0 → k ≠ 2 → step s = .next { s with host := rest })

/-! ## Invariants -/

/-- Every step keeps every memory in its canonical form. -/
def Obligations.MemoriesStayCanonical : Prop :=
  ∀ s t : State, Canonical s → step s = .next t → Canonical t

/-- R6, R23, R24, R170, R182 (derived there): every step keeps CURSOR, BOUNDARY and FILE_LEN within ADDR_W bits, CURSOR between 128 and
L while a pass runs, and N, P, Y within their loops' bounds. The parameters themselves are changed by no step (R21; that State carries
them is log 24, DESIGN CHOICE). -/
def Obligations.CursorStaysInRange : Prop :=
  ∀ s t : State, InRange s → step s = .next t → InRange t ∧ t.params = s.params

/-- R26, R224: ERR is nonzero exactly in ERROR, and ERROR holds no result; IDLE holds what reset left. Every step keeps it. -/
def Obligations.ErrorAndIdleStayCoherent : Prop :=
  ∀ s t : State, ErrorCoherent s ∧ IdleIsReset s → step s = .next t → ErrorCoherent t ∧ IdleIsReset t

/-- R26, R30, R31, R191: every step keeps the palette's registers in agreement, BOUNDARY_VALID true to BOUNDARY, IMG_VALID true to
DONE, and an IndexedViaLuma decode with 256 palette and luma entries. -/
def Obligations.ResultsStayCoherent : Prop :=
  ∀ s t : State, ErrorCoherent s ∧ ResultCoherent s → step s = .next t → ErrorCoherent t ∧ ResultCoherent t

/-- R196: every step keeps every pixel of the rows assembled so far, and of the finished image, present or absent. -/
def Obligations.PixelsStayDefined : Prop :=
  ∀ s t : State, PixelsDefined s → step s = .next t → PixelsDefined t

/-- R61 (derived there): no step faults, in any state: a FILE read at or beyond L cannot be issued. A header that asks for more than
LINE_CAPACITY or PIX_CAPACITY is refused (93 U14), at DIMS (log 10). -/
def Obligations.NoStepFaults : Prop :=
  (∀ (s : State) (f : Fault), step s ≠ .fault f) ∧
  (∀ (s : State) (h : Header), s.host = [] → isBusy s = true → s.phase = .dims → s.hdr = some h →
    s.params.lineCapacity < h.numPlanes.toNat * h.bytesPerLine.toNat ∨
      s.params.pixCapacity < (dimsOf h).rows.toNat * (dimsOf h).cols.toNat →
    step s = .refused .headerExceedsCapacity)

/-- R39 (derived there): with a written file and a header the capacities hold the block never reads state with no value: it takes its
step, and is ready for the next; while BUSY the step counts against the bound of R130, so no decode goes on for ever. -/
def Obligations.ReadyBlockAlwaysSteps : Prop :=
  ∀ s : State, Ready s → ∃ t, step s = .next t ∧ Ready t ∧
    (InRange s → InRange t ∧ (isBusy s = true → stepBudget t < stepBudget s))

/-- R130, R227 (derived there): every decode of a written file ends, in DONE or in ERROR, within a number of steps bounded by two
passes over the units, calls and scanlines. -/
def Obligations.EveryDecodeEnds : Prop :=
  ∀ s : State, Ready s → InRange s →
    ∃ k t, k ≤ stepBudget s ∧ Host.Core.run Sys2Proof.core k s = .next t ∧ isBusy t = false ∧
      (isBusy s = true → t.status.state = .done ∨ t.status.state = .error)

/-- R248: the dry run and the real pass over the same file, from the same place, stay in step until both end, and end at the same
CURSOR, which is then BOUNDARY. -/
def Obligations.PassesStayInStep : Prop :=
  ∀ a b : State, SamePlace a b → FileWritten a → a.cursor ≤ a.fileLen →
    ∃ a' b', step a = .next a' ∧ step b = .next b' ∧
      (SamePlace a' b' ∨
        (a'.point = .search ∧ a'.boundary = some a'.cursor ∧ b'.phase = .finish ∧ b'.cursor = a'.cursor))

/-- R23, R248: a decode whose dry run is made ends in DONE with CURSOR = BOUNDARY. -/
def Obligations.DoneCursorIsBoundary : Prop :=
  ∀ (s : State) (h : Header), Ready s → InRange s → isBusy s = true → s.phase = .palExtract → s.point = .enter →
    s.hdr = some h → 5 ≤ h.version.toNat →
    ∃ k t, Host.Core.run Sys2Proof.core k s = .next t ∧ t.status.state = .done ∧ t.status.boundaryValid = true ∧
      t.boundary = some t.cursor

/-- R61, 93 U13: a FILE byte at or beyond L cannot affect the block's step: changing it changes nothing but itself. -/
def Obligations.BytesBeyondTheFileDoNotMatter : Prop :=
  ∀ (s : State) (a : Nat) (b : Byte), s.host = [] → s.fileLen ≤ a →
    (∀ t, step s = .next t → step { s with file := s.file.set a b } = .next { t with file := s.file.set a b }) ∧
    (∀ r, step s = .refused r → step { s with file := s.file.set a b } = .refused r)
end

