-- ==== Sys2Proof/Laws/Decode.lean ====
section
/-! SUPPORT. The encodings as numbers: what the fields of a key, a CTRL word and a run header come to. -/

namespace Sys2Proof

/-! ## Keys -/

/-- The key as a number (30_encoding.md R98). -/
theorem formatKey_toNat (p : Bool) (np bpp : Byte) :
    (formatKey p np bpp).toNat = 65536 * p.toNat + 256 * np.toNat + bpp.toNat := by
  have h1 := np.isLt
  have h2 := bpp.isLt
  unfold formatKey
  rw [BitVec.toNat_append, BitVec.toNat_append, Nat.shiftLeft_eq, Nat.shiftLeft_eq, ← Nat.mul_comm (2 ^ 8),
    ← Nat.mul_comm (2 ^ 8), ← Nat.two_pow_add_eq_or_of_lt h2, ← Nat.two_pow_add_eq_or_of_lt h1]
  cases p
  · simp
  · simp
    omega

theorem formatKey_palPresent (p : Bool) (np bpp : Byte) : (formatKey p np bpp).getLsbD 16 = p := by
  have h1 := np.isLt
  have h2 := bpp.isLt
  rw [BitVec.getLsbD, formatKey_toNat, Nat.testBit_eq_decide_div_mod_eq]
  cases p <;> simp <;> omega

theorem formatKey_numPlanes (p : Bool) (np bpp : Byte) : (formatKey p np bpp).extractLsb' 8 8 = np := by
  have h1 := np.isLt
  have h2 := bpp.isLt
  apply BitVec.eq_of_toNat_eq
  rw [BitVec.extractLsb'_toNat, formatKey_toNat, Nat.shiftRight_eq_div_pow]
  cases p <;> simp <;> omega

theorem formatKey_bpp (p : Bool) (np bpp : Byte) : (formatKey p np bpp).extractLsb' 0 8 = bpp := by
  have h1 := np.isLt
  have h2 := bpp.isLt
  apply BitVec.eq_of_toNat_eq
  rw [BitVec.extractLsb'_toNat, formatKey_toNat, Nat.shiftRight_eq_div_pow]
  cases p <;> simp <;> omega

/-- A key is made of its three fields. -/
theorem formatKey_eta (k : BitVec 17) : formatKey (k.getLsbD 16) (k.extractLsb' 8 8) (k.extractLsb' 0 8) = k := by
  apply BitVec.eq_of_toNat_eq
  have := k.isLt
  rw [formatKey_toNat, BitVec.extractLsb'_toNat, BitVec.extractLsb'_toNat, BitVec.getLsbD,
    Nat.testBit_eq_decide_div_mod_eq, Nat.shiftRight_eq_div_pow, Nat.shiftRight_eq_div_pow]
  by_cases h : k.toNat / 2 ^ 16 % 2 = 1
  · rw [decide_eq_true h]
    simp only [Bool.toNat_true]
    omega
  · rw [decide_eq_false h]
    simp only [Bool.toNat_false]
    omega

theorem key_and_all (k : BitVec 17) : k &&& 0x1FFFF#17 = k := by
  show _ &&& BitVec.allOnes 17 = _
  exact BitVec.and_allOnes

theorem key_and_low (k : BitVec 17) : (k &&& 0x0FFFF#17).toNat = k.toNat % 65536 := by
  rw [BitVec.toNat_and]; exact Nat.and_two_pow_sub_one_eq_mod k.toNat 16

/-! ## CTRL words -/

/-- A CTRL word as a number: 30 ignored bits above the two command bits (30_encoding.md R99). -/
theorem ctrlWord_toNat (ig : BitVec 30) (lo : BitVec 2) : (ig ++ lo : BitVec 32).toNat = 4 * ig.toNat + lo.toNat := by
  rw [BitVec.toNat_append, Nat.shiftLeft_eq, Nat.mul_comm, ← Nat.two_pow_add_eq_or_of_lt lo.isLt]

theorem ctrlWord_and_three (w : Word) : (w &&& 3#32).toNat = w.toNat % 4 := by
  rw [BitVec.toNat_and]; exact Nat.and_two_pow_sub_one_eq_mod w.toNat 2

theorem ctrlWord_and_two (w : Word) : w &&& 2#32 = 2#32 ↔ 2 ≤ w.toNat % 4 := by
  have h : (w &&& 2#32) = (w &&& 3#32) &&& 2#32 := by rw [BitVec.and_assoc]; rfl
  have h3 := ctrlWord_and_three w
  have hlt : w.toNat % 4 < 4 := Nat.mod_lt _ (by decide)
  have e : w &&& 3#32 = BitVec.ofNat 32 (w.toNat % 4) := by
    apply BitVec.eq_of_toNat_eq
    rw [h3, BitVec.toNat_ofNat]
    omega
  rw [h, e]
  generalize w.toNat % 4 = m at hlt
  revert m
  decide

theorem ctrlWord_ignored (w : Word) : (w.extractLsb' 2 30).toNat = w.toNat / 4 := by
  have := w.isLt
  rw [BitVec.extractLsb'_toNat, Nat.shiftRight_eq_div_pow]
  omega

theorem ctrlWord_start (w : Word) : w.getLsbD 0 = decide (w.toNat % 2 = 1) := by
  rw [BitVec.getLsbD, Nat.testBit_eq_decide_div_mod_eq]
  simp

/-- What a CTRL word decodes to, by its two low bits. -/
theorem decodeCtrl_eq (w : Word) : decodeCtrl w =
    if w.toNat % 4 = 1 then .start (w.extractLsb' 2 30)
    else if 2 ≤ w.toNat % 4 then .reset (w.getLsbD 0) (w.extractLsb' 2 30)
    else .ctrlNop (w.extractLsb' 2 30) := by
  unfold decodeCtrl
  have h1 : (w &&& 3#32 == 1#32) = decide (w.toNat % 4 = 1) := by
    rw [Bool.eq_iff_iff, beq_iff_eq, decide_eq_true_iff, BitVec.toNat_eq, ctrlWord_and_three]
    rfl
  have h2 : (w &&& 2#32 == 2#32) = decide (2 ≤ w.toNat % 4) := by
    rw [Bool.eq_iff_iff, beq_iff_eq, decide_eq_true_iff, ctrlWord_and_two]
  rw [h1, h2]
  simp only [decide_eq_true_eq]

/-! ## Units -/

/-- A run header by its number (30_encoding.md R93). -/
theorem isRunHeader_eq (b : Byte) : isRunHeader b = decide (192 ≤ b.toNat) := by revert b; decide

theorem isRunHeader_run (c : BitVec 6) : isRunHeader (0b11#2 ++ c) = true := by revert c; decide

theorem runCount_run (c : BitVec 6) : runCount (0b11#2 ++ c) = c := by revert c; decide

theorem run_runCount (b : Byte) (h : isRunHeader b = true) : (0b11#2 ++ runCount b : BitVec 8) = b := by
  revert b; decide

/-- The two LITERAL rows by their bytes' numbers (30_encoding.md R102). -/
theorem literalRow_eq (b : Byte) : (b &&& 0x80#8 == 0x00#8) = decide (b.toNat < 128) := by revert b; decide

end Sys2Proof
end

