-- ==== Sys2Proof/Laws/Memory.lean ====
section
/-! SUPPORT. The laws of memories: a read after a write, the canonical form, and what the block's storing loops do. -/

namespace Sys2Proof.Machine

variable {α : Type}

/-! ## One location -/

theorem Memory.get_nil (a : Nat) : Memory.get ([] : Memory α) a = none := rfl

theorem Memory.get_set_self (m : Memory α) (a : Nat) (v : α) : Memory.get (Memory.set m a v) a = some v := by
  induction m with
  | nil => simp [Memory.set, Memory.get]
  | cons c rest ih =>
    obtain ⟨k, w⟩ := c
    by_cases h1 : a < k
    · simp [Memory.set, Memory.get, h1]
    · by_cases h2 : a = k
      · simp [Memory.set, Memory.get, h2]
      · simp [Memory.set, Memory.get, h1, h2, ih]

theorem Memory.get_set_of_ne (m : Memory α) {a b : Nat} (v : α) (h : b ≠ a) :
    Memory.get (Memory.set m a v) b = Memory.get m b := by
  induction m with
  | nil => simp [Memory.set, Memory.get, h, Memory.unlisted]
  | cons c rest ih =>
    obtain ⟨k, w⟩ := c
    by_cases h1 : a < k
    · simp [Memory.set, Memory.get, h1, h]
    · by_cases h2 : a = k
      · subst h2
        simp [Memory.set, Memory.get, h]
      · simp [Memory.set, Memory.get, h1, h2, ih]

/-- A read after a write. -/
theorem Memory.get_set (m : Memory α) (a b : Nat) (v : α) :
    Memory.get (Memory.set m a v) b = if b = a then some v else Memory.get m b := by
  split
  · next h => rw [h]; exact Memory.get_set_self m a v
  · next h => exact Memory.get_set_of_ne m v h

/-! ## The canonical form -/

theorem Memory.mem_keys_set {m : Memory α} {a : Nat} {v : α} {c : Nat × α} (h : c ∈ Memory.set m a v) :
    c.1 = a ∨ c ∈ m := by
  induction m with
  | nil => simp only [Memory.set, List.mem_singleton] at h; exact .inl (by rw [h])
  | cons d rest ih =>
    obtain ⟨k, w⟩ := d
    simp only [Memory.set] at h
    split at h
    · rcases List.mem_cons.1 h with h | h
      · exact .inl (by rw [h])
      · exact .inr h
    · split at h
      · rcases List.mem_cons.1 h with h | h
        · exact .inl (by rw [h])
        · exact .inr (List.mem_cons_of_mem _ h)
      · rcases List.mem_cons.1 h with h | h
        · exact .inr (by rw [h]; exact List.mem_cons_self)
        · exact (ih h).imp_right (List.mem_cons_of_mem _)

/-- A write keeps the canonical form. -/
theorem Memory.set_wf {m : Memory α} (h : m.wf) (a : Nat) (v : α) : (Memory.set m a v).wf := by
  induction m with
  | nil => exact List.pairwise_singleton _ _
  | cons c rest ih =>
    obtain ⟨k, w⟩ := c
    obtain ⟨hk, hr⟩ := List.pairwise_cons.1 h
    simp only [Memory.set]
    split
    · next h1 =>
      refine List.pairwise_cons.2 ⟨fun d hd => ?_, h⟩
      rcases List.mem_cons.1 hd with rfl | hd
      · exact h1
      · exact Nat.lt_trans h1 (hk d hd)
    · split
      · next h2 => subst h2; exact List.pairwise_cons.2 ⟨hk, hr⟩
      · next h1 h2 =>
        refine List.pairwise_cons.2 ⟨fun d hd => ?_, ih hr⟩
        rcases Memory.mem_keys_set hd with hd | hd
        · show k < d.1
          omega
        · exact hk d hd

/-- A memory in the canonical form is known by what its locations hold. -/
theorem Memory.get_of_mem {m : Memory α} (h : m.wf) {a : Nat} {v : α} (hm : (a, v) ∈ m) : m.get a = some v := by
  induction m with
  | nil => cases hm
  | cons c rest ih =>
    obtain ⟨k, w⟩ := c
    obtain ⟨hk, hr⟩ := List.pairwise_cons.1 h
    rcases List.mem_cons.1 hm with hm | hm
    · cases hm; simp [Memory.get]
    · have := hk _ hm
      have hne : a ≠ k := by dsimp only at this; omega
      simp [Memory.get, hne, ih hr hm]

/-! ## The block's storing loops -/

theorem storeCopies_wf {m : Memory Byte} (h : m.wf) (p n : Nat) (v : Byte) (k : Nat) : (storeCopies p n v k m).wf := by
  induction k with
  | zero => exact h
  | succ k ih => exact Memory.set_wf ih _ _

/-- The locations a run is stored to hold its value, every other one what it held. -/
theorem storeCopies_get (p n : Nat) (v : Byte) (k : Nat) (m : Memory Byte) (a : Nat) :
    (storeCopies p n v k m).get a = if lineKey p n ≤ a ∧ a < lineKey p n + k then some v else m.get a := by
  induction k with
  | zero => simp only [storeCopies]; rw [if_neg]; omega
  | succ k ih =>
    have hk : lineKey p (n + k) = lineKey p n + k := by unfold lineKey; omega
    rw [storeCopies, Memory.get_set, ih, hk]
    split
    · rw [if_pos]; omega
    · split
      · rw [if_pos]; omega
      · rw [if_neg]; omega

theorem putRow_wf {m : Memory (Option Rgb)} (h : m.wf) (y : Nat) (px : Nat → Option Rgb) (cols : Nat) :
    (putRow y px cols m).wf := by
  induction cols with
  | zero => exact h
  | succ k ih => exact Memory.set_wf ih _ _

/-- Every pixel of the row is written. -/
theorem putRow_get_row (y : Nat) (px : Nat → Option Rgb) {cols x : Nat} (hx : x < cols) (m : Memory (Option Rgb)) :
    (putRow y px cols m).get (pixKey y x) = some (px x) := by
  induction cols with
  | zero => omega
  | succ k ih =>
    by_cases h : x = k
    · subst h; exact Memory.get_set_self _ _ _
    · have hne : pixKey y x ≠ pixKey y k := by simp only [pixKey]; omega
      rw [putRow, Memory.get_set_of_ne _ _ hne]
      exact ih (by omega)

/-- No pixel outside the row is touched. -/
theorem putRow_get_other (y : Nat) (px : Nat → Option Rgb) (cols : Nat) (m : Memory (Option Rgb)) {a : Nat}
    (h : ∀ x < cols, a ≠ pixKey y x) : (putRow y px cols m).get a = m.get a := by
  induction cols with
  | zero => rfl
  | succ k ih =>
    rw [putRow, Memory.get_set_of_ne _ _ (h k (by omega))]
    exact ih (fun x hx => h x (by omega))

end Sys2Proof.Machine
end

