-- ==== Sys2Proof/Laws/State.lean ====
section
/-! SUPPORT. One lemma per field per update of the state: what each named update leaves in each field. A proof cites these and
does not unfold the update. -/

namespace Sys2Proof.Machine

/-! ## goPhase -/

@[simp] theorem goPhase_params (ph : Phase) (s : State) : (goPhase ph s).params = s.params := rfl
@[simp] theorem goPhase_status (ph : Phase) (s : State) : (goPhase ph s).status = s.status := rfl
@[simp] theorem goPhase_fileLen (ph : Phase) (s : State) : (goPhase ph s).fileLen = s.fileLen := rfl
@[simp] theorem goPhase_cursor (ph : Phase) (s : State) : (goPhase ph s).cursor = s.cursor := rfl
@[simp] theorem goPhase_boundary (ph : Phase) (s : State) : (goPhase ph s).boundary = s.boundary := rfl
@[simp] theorem goPhase_hdr (ph : Phase) (s : State) : (goPhase ph s).hdr = s.hdr := rfl
@[simp] theorem goPhase_dims (ph : Phase) (s : State) : (goPhase ph s).dims = s.dims := rfl
@[simp] theorem goPhase_palCount (ph : Phase) (s : State) : (goPhase ph s).palCount = s.palCount := rfl
@[simp] theorem goPhase_pal (ph : Phase) (s : State) : (goPhase ph s).pal = s.pal := rfl
@[simp] theorem goPhase_luma (ph : Phase) (s : State) : (goPhase ph s).luma = s.luma := rfl
@[simp] theorem goPhase_line (ph : Phase) (s : State) : (goPhase ph s).line = s.line := rfl
@[simp] theorem goPhase_lineLen (ph : Phase) (s : State) : (goPhase ph s).lineLen = s.lineLen := rfl
@[simp] theorem goPhase_pix (ph : Phase) (s : State) : (goPhase ph s).pix = s.pix := rfl
@[simp] theorem goPhase_phase (ph : Phase) (s : State) : (goPhase ph s).phase = ph := rfl
@[simp] theorem goPhase_point (ph : Phase) (s : State) : (goPhase ph s).point = .enter := rfl
@[simp] theorem goPhase_y (ph : Phase) (s : State) : (goPhase ph s).y = s.y := rfl
@[simp] theorem goPhase_p (ph : Phase) (s : State) : (goPhase ph s).p = s.p := rfl
@[simp] theorem goPhase_n (ph : Phase) (s : State) : (goPhase ph s).n = s.n := rfl
@[simp] theorem goPhase_file (ph : Phase) (s : State) : (goPhase ph s).file = s.file := rfl
@[simp] theorem goPhase_host (ph : Phase) (s : State) : (goPhase ph s).host = s.host := rfl
@[simp] theorem goPhase_rdata (ph : Phase) (s : State) : (goPhase ph s).rdata = s.rdata := rfl

/-! ## startPass -/

@[simp] theorem startPass_params (s : State) : (startPass s).params = s.params := rfl
@[simp] theorem startPass_status (s : State) : (startPass s).status = s.status := rfl
@[simp] theorem startPass_fileLen (s : State) : (startPass s).fileLen = s.fileLen := rfl
@[simp] theorem startPass_cursor (s : State) : (startPass s).cursor = 128 := rfl
@[simp] theorem startPass_boundary (s : State) : (startPass s).boundary = s.boundary := rfl
@[simp] theorem startPass_hdr (s : State) : (startPass s).hdr = s.hdr := rfl
@[simp] theorem startPass_dims (s : State) : (startPass s).dims = s.dims := rfl
@[simp] theorem startPass_palCount (s : State) : (startPass s).palCount = s.palCount := rfl
@[simp] theorem startPass_pal (s : State) : (startPass s).pal = s.pal := rfl
@[simp] theorem startPass_luma (s : State) : (startPass s).luma = s.luma := rfl
@[simp] theorem startPass_line (s : State) : (startPass s).line = s.line := rfl
@[simp] theorem startPass_lineLen (s : State) : (startPass s).lineLen = s.lineLen := rfl
@[simp] theorem startPass_pix (s : State) : (startPass s).pix = s.pix := rfl
@[simp] theorem startPass_phase (s : State) : (startPass s).phase = s.phase := rfl
@[simp] theorem startPass_point (s : State) : (startPass s).point = .scan := rfl
@[simp] theorem startPass_y (s : State) : (startPass s).y = 0 := rfl
@[simp] theorem startPass_p (s : State) : (startPass s).p = 0 := rfl
@[simp] theorem startPass_n (s : State) : (startPass s).n = 0 := rfl
@[simp] theorem startPass_file (s : State) : (startPass s).file = s.file := rfl
@[simp] theorem startPass_host (s : State) : (startPass s).host = s.host := rfl
@[simp] theorem startPass_rdata (s : State) : (startPass s).rdata = s.rdata := rfl

/-! ## raiseError -/

@[simp] theorem raiseError_params (e : ErrCode) (s : State) : (raiseError e s).params = s.params := rfl
@[simp] theorem raiseError_status (e : ErrCode) (s : State) : (raiseError e s).status = { s.status with state := .error, err := e, hdrValid := false, palPresent := false, imgValid := false, boundaryValid := false } := rfl
@[simp] theorem raiseError_fileLen (e : ErrCode) (s : State) : (raiseError e s).fileLen = s.fileLen := rfl
@[simp] theorem raiseError_cursor (e : ErrCode) (s : State) : (raiseError e s).cursor = s.cursor := rfl
@[simp] theorem raiseError_boundary (e : ErrCode) (s : State) : (raiseError e s).boundary = s.boundary := rfl
@[simp] theorem raiseError_hdr (e : ErrCode) (s : State) : (raiseError e s).hdr = none := rfl
@[simp] theorem raiseError_dims (e : ErrCode) (s : State) : (raiseError e s).dims = none := rfl
@[simp] theorem raiseError_palCount (e : ErrCode) (s : State) : (raiseError e s).palCount = s.palCount := rfl
@[simp] theorem raiseError_pal (e : ErrCode) (s : State) : (raiseError e s).pal = s.pal := rfl
@[simp] theorem raiseError_luma (e : ErrCode) (s : State) : (raiseError e s).luma = s.luma := rfl
@[simp] theorem raiseError_line (e : ErrCode) (s : State) : (raiseError e s).line = s.line := rfl
@[simp] theorem raiseError_lineLen (e : ErrCode) (s : State) : (raiseError e s).lineLen = s.lineLen := rfl
@[simp] theorem raiseError_pix (e : ErrCode) (s : State) : (raiseError e s).pix = s.pix := rfl
@[simp] theorem raiseError_phase (e : ErrCode) (s : State) : (raiseError e s).phase = s.phase := rfl
@[simp] theorem raiseError_point (e : ErrCode) (s : State) : (raiseError e s).point = s.point := rfl
@[simp] theorem raiseError_y (e : ErrCode) (s : State) : (raiseError e s).y = s.y := rfl
@[simp] theorem raiseError_p (e : ErrCode) (s : State) : (raiseError e s).p = s.p := rfl
@[simp] theorem raiseError_n (e : ErrCode) (s : State) : (raiseError e s).n = s.n := rfl
@[simp] theorem raiseError_file (e : ErrCode) (s : State) : (raiseError e s).file = s.file := rfl
@[simp] theorem raiseError_host (e : ErrCode) (s : State) : (raiseError e s).host = s.host := rfl
@[simp] theorem raiseError_rdata (e : ErrCode) (s : State) : (raiseError e s).rdata = s.rdata := rfl

/-! ## beginDecode -/

@[simp] theorem beginDecode_params (s : State) : (beginDecode s).params = s.params := rfl
@[simp] theorem beginDecode_status (s : State) : (beginDecode s).status = { s.status with state := .busy } := rfl
@[simp] theorem beginDecode_fileLen (s : State) : (beginDecode s).fileLen = s.fileLen := rfl
@[simp] theorem beginDecode_cursor (s : State) : (beginDecode s).cursor = s.cursor := rfl
@[simp] theorem beginDecode_boundary (s : State) : (beginDecode s).boundary = s.boundary := rfl
@[simp] theorem beginDecode_hdr (s : State) : (beginDecode s).hdr = s.hdr := rfl
@[simp] theorem beginDecode_dims (s : State) : (beginDecode s).dims = s.dims := rfl
@[simp] theorem beginDecode_palCount (s : State) : (beginDecode s).palCount = s.palCount := rfl
@[simp] theorem beginDecode_pal (s : State) : (beginDecode s).pal = s.pal := rfl
@[simp] theorem beginDecode_luma (s : State) : (beginDecode s).luma = s.luma := rfl
@[simp] theorem beginDecode_line (s : State) : (beginDecode s).line = s.line := rfl
@[simp] theorem beginDecode_lineLen (s : State) : (beginDecode s).lineLen = s.lineLen := rfl
@[simp] theorem beginDecode_pix (s : State) : (beginDecode s).pix = s.pix := rfl
@[simp] theorem beginDecode_phase (s : State) : (beginDecode s).phase = .init := rfl
@[simp] theorem beginDecode_point (s : State) : (beginDecode s).point = .enter := rfl
@[simp] theorem beginDecode_y (s : State) : (beginDecode s).y = s.y := rfl
@[simp] theorem beginDecode_p (s : State) : (beginDecode s).p = s.p := rfl
@[simp] theorem beginDecode_n (s : State) : (beginDecode s).n = s.n := rfl
@[simp] theorem beginDecode_file (s : State) : (beginDecode s).file = s.file := rfl
@[simp] theorem beginDecode_host (s : State) : (beginDecode s).host = s.host := rfl
@[simp] theorem beginDecode_rdata (s : State) : (beginDecode s).rdata = s.rdata := rfl

/-! ## resetBlock -/

@[simp] theorem resetBlock_params (s : State) : (resetBlock s).params = s.params := rfl
@[simp] theorem resetBlock_status (s : State) : (resetBlock s).status = State.reset.status := rfl
@[simp] theorem resetBlock_fileLen (s : State) : (resetBlock s).fileLen = State.reset.fileLen := rfl
@[simp] theorem resetBlock_cursor (s : State) : (resetBlock s).cursor = State.reset.cursor := rfl
@[simp] theorem resetBlock_boundary (s : State) : (resetBlock s).boundary = State.reset.boundary := rfl
@[simp] theorem resetBlock_hdr (s : State) : (resetBlock s).hdr = State.reset.hdr := rfl
@[simp] theorem resetBlock_dims (s : State) : (resetBlock s).dims = State.reset.dims := rfl
@[simp] theorem resetBlock_palCount (s : State) : (resetBlock s).palCount = State.reset.palCount := rfl
@[simp] theorem resetBlock_pal (s : State) : (resetBlock s).pal = State.reset.pal := rfl
@[simp] theorem resetBlock_luma (s : State) : (resetBlock s).luma = State.reset.luma := rfl
@[simp] theorem resetBlock_line (s : State) : (resetBlock s).line = State.reset.line := rfl
@[simp] theorem resetBlock_lineLen (s : State) : (resetBlock s).lineLen = State.reset.lineLen := rfl
@[simp] theorem resetBlock_pix (s : State) : (resetBlock s).pix = State.reset.pix := rfl
@[simp] theorem resetBlock_phase (s : State) : (resetBlock s).phase = State.reset.phase := rfl
@[simp] theorem resetBlock_point (s : State) : (resetBlock s).point = State.reset.point := rfl
@[simp] theorem resetBlock_y (s : State) : (resetBlock s).y = State.reset.y := rfl
@[simp] theorem resetBlock_p (s : State) : (resetBlock s).p = State.reset.p := rfl
@[simp] theorem resetBlock_n (s : State) : (resetBlock s).n = State.reset.n := rfl
@[simp] theorem resetBlock_file (s : State) : (resetBlock s).file = s.file := rfl
@[simp] theorem resetBlock_host (s : State) : (resetBlock s).host = s.host := rfl
@[simp] theorem resetBlock_rdata (s : State) : (resetBlock s).rdata = s.rdata := rfl

/-! ## truncateRun -/

@[simp] theorem truncateRun_params (s : State) : (truncateRun s).params = s.params := rfl
@[simp] theorem truncateRun_status (s : State) : (truncateRun s).status = s.status := rfl
@[simp] theorem truncateRun_fileLen (s : State) : (truncateRun s).fileLen = s.fileLen := rfl
@[simp] theorem truncateRun_cursor (s : State) : (truncateRun s).cursor = s.fileLen := rfl
@[simp] theorem truncateRun_boundary (s : State) : (truncateRun s).boundary = s.boundary := rfl
@[simp] theorem truncateRun_hdr (s : State) : (truncateRun s).hdr = s.hdr := rfl
@[simp] theorem truncateRun_dims (s : State) : (truncateRun s).dims = s.dims := rfl
@[simp] theorem truncateRun_palCount (s : State) : (truncateRun s).palCount = s.palCount := rfl
@[simp] theorem truncateRun_pal (s : State) : (truncateRun s).pal = s.pal := rfl
@[simp] theorem truncateRun_luma (s : State) : (truncateRun s).luma = s.luma := rfl
@[simp] theorem truncateRun_line (s : State) : (truncateRun s).line = s.line := rfl
@[simp] theorem truncateRun_lineLen (s : State) : (truncateRun s).lineLen = s.lineLen := rfl
@[simp] theorem truncateRun_pix (s : State) : (truncateRun s).pix = s.pix := rfl
@[simp] theorem truncateRun_phase (s : State) : (truncateRun s).phase = s.phase := rfl
@[simp] theorem truncateRun_point (s : State) : (truncateRun s).point = s.point := rfl
@[simp] theorem truncateRun_y (s : State) : (truncateRun s).y = s.y := rfl
@[simp] theorem truncateRun_p (s : State) : (truncateRun s).p = s.p := rfl
@[simp] theorem truncateRun_n (s : State) : (truncateRun s).n = s.n := rfl
@[simp] theorem truncateRun_file (s : State) : (truncateRun s).file = s.file := rfl
@[simp] theorem truncateRun_host (s : State) : (truncateRun s).host = s.host := rfl
@[simp] theorem truncateRun_rdata (s : State) : (truncateRun s).rdata = s.rdata := rfl

/-! ## closeCall -/

@[simp] theorem closeCall_params (h : Header) (s : State) : (closeCall h s).params = s.params := rfl
@[simp] theorem closeCall_status (h : Header) (s : State) : (closeCall h s).status = { s.status with trunc := truncAfter s.status.trunc s.n h.bytesPerLine } := rfl
@[simp] theorem closeCall_fileLen (h : Header) (s : State) : (closeCall h s).fileLen = s.fileLen := rfl
@[simp] theorem closeCall_cursor (h : Header) (s : State) : (closeCall h s).cursor = s.cursor := rfl
@[simp] theorem closeCall_boundary (h : Header) (s : State) : (closeCall h s).boundary = s.boundary := rfl
@[simp] theorem closeCall_hdr (h : Header) (s : State) : (closeCall h s).hdr = s.hdr := rfl
@[simp] theorem closeCall_dims (h : Header) (s : State) : (closeCall h s).dims = s.dims := rfl
@[simp] theorem closeCall_palCount (h : Header) (s : State) : (closeCall h s).palCount = s.palCount := rfl
@[simp] theorem closeCall_pal (h : Header) (s : State) : (closeCall h s).pal = s.pal := rfl
@[simp] theorem closeCall_luma (h : Header) (s : State) : (closeCall h s).luma = s.luma := rfl
@[simp] theorem closeCall_line (h : Header) (s : State) : (closeCall h s).line = s.line := rfl
@[simp] theorem closeCall_lineLen (h : Header) (s : State) : (closeCall h s).lineLen = s.lineLen.set s.p.toNat s.n := rfl
@[simp] theorem closeCall_pix (h : Header) (s : State) : (closeCall h s).pix = s.pix := rfl
@[simp] theorem closeCall_phase (h : Header) (s : State) : (closeCall h s).phase = s.phase := rfl
@[simp] theorem closeCall_point (h : Header) (s : State) : (closeCall h s).point = s.point := rfl
@[simp] theorem closeCall_y (h : Header) (s : State) : (closeCall h s).y = s.y := rfl
@[simp] theorem closeCall_p (h : Header) (s : State) : (closeCall h s).p = s.p := rfl
@[simp] theorem closeCall_n (h : Header) (s : State) : (closeCall h s).n = s.n := rfl
@[simp] theorem closeCall_file (h : Header) (s : State) : (closeCall h s).file = s.file := rfl
@[simp] theorem closeCall_host (h : Header) (s : State) : (closeCall h s).host = s.host := rfl
@[simp] theorem closeCall_rdata (h : Header) (s : State) : (closeCall h s).rdata = s.rdata := rfl

/-! ## nextPlane -/

@[simp] theorem nextPlane_params (s : State) : (nextPlane s).params = s.params := rfl
@[simp] theorem nextPlane_status (s : State) : (nextPlane s).status = s.status := rfl
@[simp] theorem nextPlane_fileLen (s : State) : (nextPlane s).fileLen = s.fileLen := rfl
@[simp] theorem nextPlane_cursor (s : State) : (nextPlane s).cursor = s.cursor := rfl
@[simp] theorem nextPlane_boundary (s : State) : (nextPlane s).boundary = s.boundary := rfl
@[simp] theorem nextPlane_hdr (s : State) : (nextPlane s).hdr = s.hdr := rfl
@[simp] theorem nextPlane_dims (s : State) : (nextPlane s).dims = s.dims := rfl
@[simp] theorem nextPlane_palCount (s : State) : (nextPlane s).palCount = s.palCount := rfl
@[simp] theorem nextPlane_pal (s : State) : (nextPlane s).pal = s.pal := rfl
@[simp] theorem nextPlane_luma (s : State) : (nextPlane s).luma = s.luma := rfl
@[simp] theorem nextPlane_line (s : State) : (nextPlane s).line = s.line := rfl
@[simp] theorem nextPlane_lineLen (s : State) : (nextPlane s).lineLen = s.lineLen := rfl
@[simp] theorem nextPlane_pix (s : State) : (nextPlane s).pix = s.pix := rfl
@[simp] theorem nextPlane_phase (s : State) : (nextPlane s).phase = s.phase := rfl
@[simp] theorem nextPlane_point (s : State) : (nextPlane s).point = s.point := rfl
@[simp] theorem nextPlane_y (s : State) : (nextPlane s).y = s.y := rfl
@[simp] theorem nextPlane_p (s : State) : (nextPlane s).p = s.p + 1 := rfl
@[simp] theorem nextPlane_n (s : State) : (nextPlane s).n = 0 := rfl
@[simp] theorem nextPlane_file (s : State) : (nextPlane s).file = s.file := rfl
@[simp] theorem nextPlane_host (s : State) : (nextPlane s).host = s.host := rfl
@[simp] theorem nextPlane_rdata (s : State) : (nextPlane s).rdata = s.rdata := rfl

/-! ## nextRow -/

@[simp] theorem nextRow_params (s : State) : (nextRow s).params = s.params := rfl
@[simp] theorem nextRow_status (s : State) : (nextRow s).status = s.status := rfl
@[simp] theorem nextRow_fileLen (s : State) : (nextRow s).fileLen = s.fileLen := rfl
@[simp] theorem nextRow_cursor (s : State) : (nextRow s).cursor = s.cursor := rfl
@[simp] theorem nextRow_boundary (s : State) : (nextRow s).boundary = s.boundary := rfl
@[simp] theorem nextRow_hdr (s : State) : (nextRow s).hdr = s.hdr := rfl
@[simp] theorem nextRow_dims (s : State) : (nextRow s).dims = s.dims := rfl
@[simp] theorem nextRow_palCount (s : State) : (nextRow s).palCount = s.palCount := rfl
@[simp] theorem nextRow_pal (s : State) : (nextRow s).pal = s.pal := rfl
@[simp] theorem nextRow_luma (s : State) : (nextRow s).luma = s.luma := rfl
@[simp] theorem nextRow_line (s : State) : (nextRow s).line = s.line := rfl
@[simp] theorem nextRow_lineLen (s : State) : (nextRow s).lineLen = s.lineLen := rfl
@[simp] theorem nextRow_pix (s : State) : (nextRow s).pix = s.pix := rfl
@[simp] theorem nextRow_phase (s : State) : (nextRow s).phase = s.phase := rfl
@[simp] theorem nextRow_point (s : State) : (nextRow s).point = s.point := rfl
@[simp] theorem nextRow_y (s : State) : (nextRow s).y = s.y + 1 := rfl
@[simp] theorem nextRow_p (s : State) : (nextRow s).p = 0 := rfl
@[simp] theorem nextRow_n (s : State) : (nextRow s).n = 0 := rfl
@[simp] theorem nextRow_file (s : State) : (nextRow s).file = s.file := rfl
@[simp] theorem nextRow_host (s : State) : (nextRow s).host = s.host := rfl
@[simp] theorem nextRow_rdata (s : State) : (nextRow s).rdata = s.rdata := rfl

/-! ## appendUnit -/

@[simp] theorem appendUnit_params (len k : Nat) (v : Byte) (s : State) : (appendUnit len k v s).params = s.params := rfl
@[simp] theorem appendUnit_status (len k : Nat) (v : Byte) (s : State) : (appendUnit len k v s).status = s.status := rfl
@[simp] theorem appendUnit_fileLen (len k : Nat) (v : Byte) (s : State) : (appendUnit len k v s).fileLen = s.fileLen := rfl
@[simp] theorem appendUnit_cursor (len k : Nat) (v : Byte) (s : State) : (appendUnit len k v s).cursor = s.cursor + len := rfl
@[simp] theorem appendUnit_boundary (len k : Nat) (v : Byte) (s : State) : (appendUnit len k v s).boundary = s.boundary := rfl
@[simp] theorem appendUnit_hdr (len k : Nat) (v : Byte) (s : State) : (appendUnit len k v s).hdr = s.hdr := rfl
@[simp] theorem appendUnit_dims (len k : Nat) (v : Byte) (s : State) : (appendUnit len k v s).dims = s.dims := rfl
@[simp] theorem appendUnit_palCount (len k : Nat) (v : Byte) (s : State) : (appendUnit len k v s).palCount = s.palCount := rfl
@[simp] theorem appendUnit_pal (len k : Nat) (v : Byte) (s : State) : (appendUnit len k v s).pal = s.pal := rfl
@[simp] theorem appendUnit_luma (len k : Nat) (v : Byte) (s : State) : (appendUnit len k v s).luma = s.luma := rfl
@[simp] theorem appendUnit_line (len k : Nat) (v : Byte) (s : State) : (appendUnit len k v s).line = if storing s then storeCopies s.p.toNat s.n.toNat v k s.line else s.line := rfl
@[simp] theorem appendUnit_lineLen (len k : Nat) (v : Byte) (s : State) : (appendUnit len k v s).lineLen = s.lineLen := rfl
@[simp] theorem appendUnit_pix (len k : Nat) (v : Byte) (s : State) : (appendUnit len k v s).pix = s.pix := rfl
@[simp] theorem appendUnit_phase (len k : Nat) (v : Byte) (s : State) : (appendUnit len k v s).phase = s.phase := rfl
@[simp] theorem appendUnit_point (len k : Nat) (v : Byte) (s : State) : (appendUnit len k v s).point = s.point := rfl
@[simp] theorem appendUnit_y (len k : Nat) (v : Byte) (s : State) : (appendUnit len k v s).y = s.y := rfl
@[simp] theorem appendUnit_p (len k : Nat) (v : Byte) (s : State) : (appendUnit len k v s).p = s.p := rfl
@[simp] theorem appendUnit_n (len k : Nat) (v : Byte) (s : State) : (appendUnit len k v s).n = s.n + BitVec.ofNat 16 k := rfl
@[simp] theorem appendUnit_file (len k : Nat) (v : Byte) (s : State) : (appendUnit len k v s).file = s.file := rfl
@[simp] theorem appendUnit_host (len k : Nat) (v : Byte) (s : State) : (appendUnit len k v s).host = s.host := rfl
@[simp] theorem appendUnit_rdata (len k : Nat) (v : Byte) (s : State) : (appendUnit len k v s).rdata = s.rdata := rfl

/-! ## buildLuma -/

@[simp] theorem buildLuma_params (s : State) : (buildLuma s).params = s.params := rfl
@[simp] theorem buildLuma_status (s : State) : (buildLuma s).status = s.status := rfl
@[simp] theorem buildLuma_fileLen (s : State) : (buildLuma s).fileLen = s.fileLen := rfl
@[simp] theorem buildLuma_cursor (s : State) : (buildLuma s).cursor = s.cursor := rfl
@[simp] theorem buildLuma_boundary (s : State) : (buildLuma s).boundary = s.boundary := rfl
@[simp] theorem buildLuma_hdr (s : State) : (buildLuma s).hdr = s.hdr := rfl
@[simp] theorem buildLuma_dims (s : State) : (buildLuma s).dims = s.dims := rfl
@[simp] theorem buildLuma_palCount (s : State) : (buildLuma s).palCount = s.palCount := rfl
@[simp] theorem buildLuma_pal (s : State) : (buildLuma s).pal = s.pal := rfl
@[simp] theorem buildLuma_luma (s : State) : (buildLuma s).luma = s.pal.map (lumaOf s.params.lumaTie) := rfl
@[simp] theorem buildLuma_line (s : State) : (buildLuma s).line = s.line := rfl
@[simp] theorem buildLuma_lineLen (s : State) : (buildLuma s).lineLen = s.lineLen := rfl
@[simp] theorem buildLuma_pix (s : State) : (buildLuma s).pix = s.pix := rfl
@[simp] theorem buildLuma_phase (s : State) : (buildLuma s).phase = s.phase := rfl
@[simp] theorem buildLuma_point (s : State) : (buildLuma s).point = s.point := rfl
@[simp] theorem buildLuma_y (s : State) : (buildLuma s).y = s.y := rfl
@[simp] theorem buildLuma_p (s : State) : (buildLuma s).p = s.p := rfl
@[simp] theorem buildLuma_n (s : State) : (buildLuma s).n = s.n := rfl
@[simp] theorem buildLuma_file (s : State) : (buildLuma s).file = s.file := rfl
@[simp] theorem buildLuma_host (s : State) : (buildLuma s).host = s.host := rfl
@[simp] theorem buildLuma_rdata (s : State) : (buildLuma s).rdata = s.rdata := rfl

/-! ## selectFormat -/

@[simp] theorem selectFormat_params (f : PixelFormat) (s : State) : (selectFormat f s).params = s.params := rfl
@[simp] theorem selectFormat_status (f : PixelFormat) (s : State) : (selectFormat f s).status = { s.status with format := f } := rfl
@[simp] theorem selectFormat_fileLen (f : PixelFormat) (s : State) : (selectFormat f s).fileLen = s.fileLen := rfl
@[simp] theorem selectFormat_cursor (f : PixelFormat) (s : State) : (selectFormat f s).cursor = s.cursor := rfl
@[simp] theorem selectFormat_boundary (f : PixelFormat) (s : State) : (selectFormat f s).boundary = s.boundary := rfl
@[simp] theorem selectFormat_hdr (f : PixelFormat) (s : State) : (selectFormat f s).hdr = s.hdr := rfl
@[simp] theorem selectFormat_dims (f : PixelFormat) (s : State) : (selectFormat f s).dims = s.dims := rfl
@[simp] theorem selectFormat_palCount (f : PixelFormat) (s : State) : (selectFormat f s).palCount = s.palCount := rfl
@[simp] theorem selectFormat_pal (f : PixelFormat) (s : State) : (selectFormat f s).pal = s.pal := rfl
@[simp] theorem selectFormat_luma (f : PixelFormat) (s : State) : (selectFormat f s).luma = s.luma := rfl
@[simp] theorem selectFormat_line (f : PixelFormat) (s : State) : (selectFormat f s).line = s.line := rfl
@[simp] theorem selectFormat_lineLen (f : PixelFormat) (s : State) : (selectFormat f s).lineLen = s.lineLen := rfl
@[simp] theorem selectFormat_pix (f : PixelFormat) (s : State) : (selectFormat f s).pix = s.pix := rfl
@[simp] theorem selectFormat_phase (f : PixelFormat) (s : State) : (selectFormat f s).phase = .decode := rfl
@[simp] theorem selectFormat_point (f : PixelFormat) (s : State) : (selectFormat f s).point = .enter := rfl
@[simp] theorem selectFormat_y (f : PixelFormat) (s : State) : (selectFormat f s).y = s.y := rfl
@[simp] theorem selectFormat_p (f : PixelFormat) (s : State) : (selectFormat f s).p = s.p := rfl
@[simp] theorem selectFormat_n (f : PixelFormat) (s : State) : (selectFormat f s).n = s.n := rfl
@[simp] theorem selectFormat_file (f : PixelFormat) (s : State) : (selectFormat f s).file = s.file := rfl
@[simp] theorem selectFormat_host (f : PixelFormat) (s : State) : (selectFormat f s).host = s.host := rfl
@[simp] theorem selectFormat_rdata (f : PixelFormat) (s : State) : (selectFormat f s).rdata = s.rdata := rfl

/-! ## initDecode -/

@[simp] theorem initDecode_params (s : State) : (initDecode s).params = s.params := rfl
@[simp] theorem initDecode_status (s : State) : (initDecode s).status = s.status.cleared := rfl
@[simp] theorem initDecode_fileLen (s : State) : (initDecode s).fileLen = s.fileLen := rfl
@[simp] theorem initDecode_cursor (s : State) : (initDecode s).cursor = 128 := rfl
@[simp] theorem initDecode_boundary (s : State) : (initDecode s).boundary = none := rfl
@[simp] theorem initDecode_hdr (s : State) : (initDecode s).hdr = none := rfl
@[simp] theorem initDecode_dims (s : State) : (initDecode s).dims = none := rfl
@[simp] theorem initDecode_palCount (s : State) : (initDecode s).palCount = 0 := rfl
@[simp] theorem initDecode_pal (s : State) : (initDecode s).pal = [] := rfl
@[simp] theorem initDecode_luma (s : State) : (initDecode s).luma = [] := rfl
@[simp] theorem initDecode_line (s : State) : (initDecode s).line = s.line := rfl
@[simp] theorem initDecode_lineLen (s : State) : (initDecode s).lineLen = s.lineLen := rfl
@[simp] theorem initDecode_pix (s : State) : (initDecode s).pix = [] := rfl
@[simp] theorem initDecode_phase (s : State) : (initDecode s).phase = .hdrParse := rfl
@[simp] theorem initDecode_point (s : State) : (initDecode s).point = .enter := rfl
@[simp] theorem initDecode_y (s : State) : (initDecode s).y = s.y := rfl
@[simp] theorem initDecode_p (s : State) : (initDecode s).p = s.p := rfl
@[simp] theorem initDecode_n (s : State) : (initDecode s).n = s.n := rfl
@[simp] theorem initDecode_file (s : State) : (initDecode s).file = s.file := rfl
@[simp] theorem initDecode_host (s : State) : (initDecode s).host = s.host := rfl
@[simp] theorem initDecode_rdata (s : State) : (initDecode s).rdata = s.rdata := rfl

/-! ## recordDims -/

@[simp] theorem recordDims_params (h : Header) (s : State) : (recordDims h s).params = s.params := rfl
@[simp] theorem recordDims_status (h : Header) (s : State) : (recordDims h s).status = { s.status with dimBad := dimBad (extent h.xmin h.xmax) (extent h.ymin h.ymax) } := rfl
@[simp] theorem recordDims_fileLen (h : Header) (s : State) : (recordDims h s).fileLen = s.fileLen := rfl
@[simp] theorem recordDims_cursor (h : Header) (s : State) : (recordDims h s).cursor = s.cursor := rfl
@[simp] theorem recordDims_boundary (h : Header) (s : State) : (recordDims h s).boundary = s.boundary := rfl
@[simp] theorem recordDims_hdr (h : Header) (s : State) : (recordDims h s).hdr = s.hdr := rfl
@[simp] theorem recordDims_dims (h : Header) (s : State) : (recordDims h s).dims = some (dimsOf h) := rfl
@[simp] theorem recordDims_palCount (h : Header) (s : State) : (recordDims h s).palCount = s.palCount := rfl
@[simp] theorem recordDims_pal (h : Header) (s : State) : (recordDims h s).pal = s.pal := rfl
@[simp] theorem recordDims_luma (h : Header) (s : State) : (recordDims h s).luma = s.luma := rfl
@[simp] theorem recordDims_line (h : Header) (s : State) : (recordDims h s).line = s.line := rfl
@[simp] theorem recordDims_lineLen (h : Header) (s : State) : (recordDims h s).lineLen = s.lineLen := rfl
@[simp] theorem recordDims_pix (h : Header) (s : State) : (recordDims h s).pix = s.pix := rfl
@[simp] theorem recordDims_phase (h : Header) (s : State) : (recordDims h s).phase = .palExtract := rfl
@[simp] theorem recordDims_point (h : Header) (s : State) : (recordDims h s).point = .enter := rfl
@[simp] theorem recordDims_y (h : Header) (s : State) : (recordDims h s).y = s.y := rfl
@[simp] theorem recordDims_p (h : Header) (s : State) : (recordDims h s).p = s.p := rfl
@[simp] theorem recordDims_n (h : Header) (s : State) : (recordDims h s).n = s.n := rfl
@[simp] theorem recordDims_file (h : Header) (s : State) : (recordDims h s).file = s.file := rfl
@[simp] theorem recordDims_host (h : Header) (s : State) : (recordDims h s).host = s.host := rfl
@[simp] theorem recordDims_rdata (h : Header) (s : State) : (recordDims h s).rdata = s.rdata := rfl

/-! ## finish -/

@[simp] theorem finish_params (s : State) : (finish s).params = s.params := rfl
@[simp] theorem finish_status (s : State) : (finish s).status = { s.status with imgValid := true, state := .done } := rfl
@[simp] theorem finish_fileLen (s : State) : (finish s).fileLen = s.fileLen := rfl
@[simp] theorem finish_cursor (s : State) : (finish s).cursor = s.cursor := rfl
@[simp] theorem finish_boundary (s : State) : (finish s).boundary = s.boundary := rfl
@[simp] theorem finish_hdr (s : State) : (finish s).hdr = s.hdr := rfl
@[simp] theorem finish_dims (s : State) : (finish s).dims = s.dims := rfl
@[simp] theorem finish_palCount (s : State) : (finish s).palCount = s.palCount := rfl
@[simp] theorem finish_pal (s : State) : (finish s).pal = s.pal := rfl
@[simp] theorem finish_luma (s : State) : (finish s).luma = s.luma := rfl
@[simp] theorem finish_line (s : State) : (finish s).line = s.line := rfl
@[simp] theorem finish_lineLen (s : State) : (finish s).lineLen = s.lineLen := rfl
@[simp] theorem finish_pix (s : State) : (finish s).pix = s.pix := rfl
@[simp] theorem finish_phase (s : State) : (finish s).phase = s.phase := rfl
@[simp] theorem finish_point (s : State) : (finish s).point = s.point := rfl
@[simp] theorem finish_y (s : State) : (finish s).y = s.y := rfl
@[simp] theorem finish_p (s : State) : (finish s).p = s.p := rfl
@[simp] theorem finish_n (s : State) : (finish s).n = s.n := rfl
@[simp] theorem finish_file (s : State) : (finish s).file = s.file := rfl
@[simp] theorem finish_host (s : State) : (finish s).host = s.host := rfl
@[simp] theorem finish_rdata (s : State) : (finish s).rdata = s.rdata := rfl

/-! ## closeDryRun -/

@[simp] theorem closeDryRun_params (s : State) : (closeDryRun s).params = s.params := rfl
@[simp] theorem closeDryRun_status (s : State) : (closeDryRun s).status = { s.status with boundaryValid := true } := rfl
@[simp] theorem closeDryRun_fileLen (s : State) : (closeDryRun s).fileLen = s.fileLen := rfl
@[simp] theorem closeDryRun_cursor (s : State) : (closeDryRun s).cursor = s.cursor := rfl
@[simp] theorem closeDryRun_boundary (s : State) : (closeDryRun s).boundary = some s.cursor := rfl
@[simp] theorem closeDryRun_hdr (s : State) : (closeDryRun s).hdr = s.hdr := rfl
@[simp] theorem closeDryRun_dims (s : State) : (closeDryRun s).dims = s.dims := rfl
@[simp] theorem closeDryRun_palCount (s : State) : (closeDryRun s).palCount = s.palCount := rfl
@[simp] theorem closeDryRun_pal (s : State) : (closeDryRun s).pal = s.pal := rfl
@[simp] theorem closeDryRun_luma (s : State) : (closeDryRun s).luma = s.luma := rfl
@[simp] theorem closeDryRun_line (s : State) : (closeDryRun s).line = s.line := rfl
@[simp] theorem closeDryRun_lineLen (s : State) : (closeDryRun s).lineLen = s.lineLen := rfl
@[simp] theorem closeDryRun_pix (s : State) : (closeDryRun s).pix = s.pix := rfl
@[simp] theorem closeDryRun_phase (s : State) : (closeDryRun s).phase = s.phase := rfl
@[simp] theorem closeDryRun_point (s : State) : (closeDryRun s).point = .search := rfl
@[simp] theorem closeDryRun_y (s : State) : (closeDryRun s).y = s.y := rfl
@[simp] theorem closeDryRun_p (s : State) : (closeDryRun s).p = s.p := rfl
@[simp] theorem closeDryRun_n (s : State) : (closeDryRun s).n = s.n := rfl
@[simp] theorem closeDryRun_file (s : State) : (closeDryRun s).file = s.file := rfl
@[simp] theorem closeDryRun_host (s : State) : (closeDryRun s).host = s.host := rfl
@[simp] theorem closeDryRun_rdata (s : State) : (closeDryRun s).rdata = s.rdata := rfl

/-! ## trimLine and endCall -/

@[simp] theorem trimLine_lineLen_get (d : Dims) (s : State) (q : Nat) :
    (trimLine d s).lineLen.get q =
      if q = s.p.toNat then (s.lineLen.get q).map (fun len => if d.cols.toNat < len.toNat then d.cols.setWidth 16 else len)
      else s.lineLen.get q := by
  unfold trimLine
  split
  · next len h =>
    show Memory.get (Memory.set s.lineLen _ _) q = _
    rw [Memory.get_set]
    split
    · next e => subst e; rw [h]; rfl
    · rfl
  · next h =>
    split
    · next e => subst e; rw [h]; rfl
    · rfl

@[simp] theorem trimLine_params (d : Dims) (s : State) : (trimLine d s).params = s.params := by unfold trimLine; split <;> rfl
@[simp] theorem trimLine_status (d : Dims) (s : State) : (trimLine d s).status = s.status := by unfold trimLine; split <;> rfl
@[simp] theorem trimLine_fileLen (d : Dims) (s : State) : (trimLine d s).fileLen = s.fileLen := by unfold trimLine; split <;> rfl
@[simp] theorem trimLine_cursor (d : Dims) (s : State) : (trimLine d s).cursor = s.cursor := by unfold trimLine; split <;> rfl
@[simp] theorem trimLine_boundary (d : Dims) (s : State) : (trimLine d s).boundary = s.boundary := by unfold trimLine; split <;> rfl
@[simp] theorem trimLine_hdr (d : Dims) (s : State) : (trimLine d s).hdr = s.hdr := by unfold trimLine; split <;> rfl
@[simp] theorem trimLine_dims (d : Dims) (s : State) : (trimLine d s).dims = s.dims := by unfold trimLine; split <;> rfl
@[simp] theorem trimLine_palCount (d : Dims) (s : State) : (trimLine d s).palCount = s.palCount := by unfold trimLine; split <;> rfl
@[simp] theorem trimLine_pal (d : Dims) (s : State) : (trimLine d s).pal = s.pal := by unfold trimLine; split <;> rfl
@[simp] theorem trimLine_luma (d : Dims) (s : State) : (trimLine d s).luma = s.luma := by unfold trimLine; split <;> rfl
@[simp] theorem trimLine_line (d : Dims) (s : State) : (trimLine d s).line = s.line := by unfold trimLine; split <;> rfl
@[simp] theorem trimLine_pix (d : Dims) (s : State) : (trimLine d s).pix = s.pix := by unfold trimLine; split <;> rfl
@[simp] theorem trimLine_phase (d : Dims) (s : State) : (trimLine d s).phase = s.phase := by unfold trimLine; split <;> rfl
@[simp] theorem trimLine_point (d : Dims) (s : State) : (trimLine d s).point = s.point := by unfold trimLine; split <;> rfl
@[simp] theorem trimLine_y (d : Dims) (s : State) : (trimLine d s).y = s.y := by unfold trimLine; split <;> rfl
@[simp] theorem trimLine_p (d : Dims) (s : State) : (trimLine d s).p = s.p := by unfold trimLine; split <;> rfl
@[simp] theorem trimLine_n (d : Dims) (s : State) : (trimLine d s).n = s.n := by unfold trimLine; split <;> rfl
@[simp] theorem trimLine_file (d : Dims) (s : State) : (trimLine d s).file = s.file := by unfold trimLine; split <;> rfl
@[simp] theorem trimLine_host (d : Dims) (s : State) : (trimLine d s).host = s.host := by unfold trimLine; split <;> rfl
@[simp] theorem trimLine_rdata (d : Dims) (s : State) : (trimLine d s).rdata = s.rdata := by unfold trimLine; split <;> rfl

@[simp] theorem endCall_params (h : Header) (d : Dims) (s : State) : (endCall h d s).params = s.params := by
  unfold endCall; cases storing s <;> simp
@[simp] theorem endCall_status (h : Header) (d : Dims) (s : State) : (endCall h d s).status = if storing s then (closeCall h s).status else s.status := by
  unfold endCall; cases storing s <;> simp
@[simp] theorem endCall_fileLen (h : Header) (d : Dims) (s : State) : (endCall h d s).fileLen = s.fileLen := by
  unfold endCall; cases storing s <;> simp
@[simp] theorem endCall_cursor (h : Header) (d : Dims) (s : State) : (endCall h d s).cursor = s.cursor := by
  unfold endCall; cases storing s <;> simp
@[simp] theorem endCall_boundary (h : Header) (d : Dims) (s : State) : (endCall h d s).boundary = s.boundary := by
  unfold endCall; cases storing s <;> simp
@[simp] theorem endCall_hdr (h : Header) (d : Dims) (s : State) : (endCall h d s).hdr = s.hdr := by
  unfold endCall; cases storing s <;> simp
@[simp] theorem endCall_dims (h : Header) (d : Dims) (s : State) : (endCall h d s).dims = s.dims := by
  unfold endCall; cases storing s <;> simp
@[simp] theorem endCall_palCount (h : Header) (d : Dims) (s : State) : (endCall h d s).palCount = s.palCount := by
  unfold endCall; cases storing s <;> simp
@[simp] theorem endCall_pal (h : Header) (d : Dims) (s : State) : (endCall h d s).pal = s.pal := by
  unfold endCall; cases storing s <;> simp
@[simp] theorem endCall_luma (h : Header) (d : Dims) (s : State) : (endCall h d s).luma = s.luma := by
  unfold endCall; cases storing s <;> simp
@[simp] theorem endCall_line (h : Header) (d : Dims) (s : State) : (endCall h d s).line = s.line := by
  unfold endCall; cases storing s <;> simp
@[simp] theorem endCall_pix (h : Header) (d : Dims) (s : State) : (endCall h d s).pix = s.pix := by
  unfold endCall; cases storing s <;> simp
@[simp] theorem endCall_phase (h : Header) (d : Dims) (s : State) : (endCall h d s).phase = s.phase := by
  unfold endCall; cases storing s <;> simp
@[simp] theorem endCall_point (h : Header) (d : Dims) (s : State) : (endCall h d s).point = s.point := by
  unfold endCall; cases storing s <;> simp
@[simp] theorem endCall_y (h : Header) (d : Dims) (s : State) : (endCall h d s).y = s.y := by
  unfold endCall; cases storing s <;> simp
@[simp] theorem endCall_p (h : Header) (d : Dims) (s : State) : (endCall h d s).p = s.p + 1 := by
  unfold endCall; cases storing s <;> simp
@[simp] theorem endCall_n (h : Header) (d : Dims) (s : State) : (endCall h d s).n = 0 := by
  unfold endCall; cases storing s <;> simp
@[simp] theorem endCall_file (h : Header) (d : Dims) (s : State) : (endCall h d s).file = s.file := by
  unfold endCall; cases storing s <;> simp
@[simp] theorem endCall_host (h : Header) (d : Dims) (s : State) : (endCall h d s).host = s.host := by
  unfold endCall; cases storing s <;> simp
@[simp] theorem endCall_rdata (h : Header) (d : Dims) (s : State) : (endCall h d s).rdata = s.rdata := by
  unfold endCall; cases storing s <;> simp

/-! ## recordPalette -/

@[simp] theorem recordPalette_some_params (r : List Rgb × PalSrc) (s : State) : (recordPalette (some r) s).params = s.params := rfl
@[simp] theorem recordPalette_some_status (r : List Rgb × PalSrc) (s : State) : (recordPalette (some r) s).status = { s.status with palPresent := true, palSrc := r.2 } := rfl
@[simp] theorem recordPalette_some_fileLen (r : List Rgb × PalSrc) (s : State) : (recordPalette (some r) s).fileLen = s.fileLen := rfl
@[simp] theorem recordPalette_some_cursor (r : List Rgb × PalSrc) (s : State) : (recordPalette (some r) s).cursor = s.cursor := rfl
@[simp] theorem recordPalette_some_boundary (r : List Rgb × PalSrc) (s : State) : (recordPalette (some r) s).boundary = s.boundary := rfl
@[simp] theorem recordPalette_some_hdr (r : List Rgb × PalSrc) (s : State) : (recordPalette (some r) s).hdr = s.hdr := rfl
@[simp] theorem recordPalette_some_dims (r : List Rgb × PalSrc) (s : State) : (recordPalette (some r) s).dims = s.dims := rfl
@[simp] theorem recordPalette_some_palCount (r : List Rgb × PalSrc) (s : State) : (recordPalette (some r) s).palCount = r.2.count := rfl
@[simp] theorem recordPalette_some_pal (r : List Rgb × PalSrc) (s : State) : (recordPalette (some r) s).pal = r.1 := rfl
@[simp] theorem recordPalette_some_luma (r : List Rgb × PalSrc) (s : State) : (recordPalette (some r) s).luma = s.luma := rfl
@[simp] theorem recordPalette_some_line (r : List Rgb × PalSrc) (s : State) : (recordPalette (some r) s).line = s.line := rfl
@[simp] theorem recordPalette_some_lineLen (r : List Rgb × PalSrc) (s : State) : (recordPalette (some r) s).lineLen = s.lineLen := rfl
@[simp] theorem recordPalette_some_pix (r : List Rgb × PalSrc) (s : State) : (recordPalette (some r) s).pix = s.pix := rfl
@[simp] theorem recordPalette_some_phase (r : List Rgb × PalSrc) (s : State) : (recordPalette (some r) s).phase = .formatSelect := rfl
@[simp] theorem recordPalette_some_point (r : List Rgb × PalSrc) (s : State) : (recordPalette (some r) s).point = .enter := rfl
@[simp] theorem recordPalette_some_y (r : List Rgb × PalSrc) (s : State) : (recordPalette (some r) s).y = s.y := rfl
@[simp] theorem recordPalette_some_p (r : List Rgb × PalSrc) (s : State) : (recordPalette (some r) s).p = s.p := rfl
@[simp] theorem recordPalette_some_n (r : List Rgb × PalSrc) (s : State) : (recordPalette (some r) s).n = s.n := rfl
@[simp] theorem recordPalette_some_file (r : List Rgb × PalSrc) (s : State) : (recordPalette (some r) s).file = s.file := rfl
@[simp] theorem recordPalette_some_host (r : List Rgb × PalSrc) (s : State) : (recordPalette (some r) s).host = s.host := rfl
@[simp] theorem recordPalette_some_rdata (r : List Rgb × PalSrc) (s : State) : (recordPalette (some r) s).rdata = s.rdata := rfl
@[simp] theorem recordPalette_none_params (s : State) : (recordPalette none s).params = s.params := rfl
@[simp] theorem recordPalette_none_status (s : State) : (recordPalette none s).status = { s.status with palPresent := false, palSrc := .absent } := rfl
@[simp] theorem recordPalette_none_fileLen (s : State) : (recordPalette none s).fileLen = s.fileLen := rfl
@[simp] theorem recordPalette_none_cursor (s : State) : (recordPalette none s).cursor = s.cursor := rfl
@[simp] theorem recordPalette_none_boundary (s : State) : (recordPalette none s).boundary = s.boundary := rfl
@[simp] theorem recordPalette_none_hdr (s : State) : (recordPalette none s).hdr = s.hdr := rfl
@[simp] theorem recordPalette_none_dims (s : State) : (recordPalette none s).dims = s.dims := rfl
@[simp] theorem recordPalette_none_palCount (s : State) : (recordPalette none s).palCount = 0 := rfl
@[simp] theorem recordPalette_none_pal (s : State) : (recordPalette none s).pal = s.pal := rfl
@[simp] theorem recordPalette_none_luma (s : State) : (recordPalette none s).luma = s.luma := rfl
@[simp] theorem recordPalette_none_line (s : State) : (recordPalette none s).line = s.line := rfl
@[simp] theorem recordPalette_none_lineLen (s : State) : (recordPalette none s).lineLen = s.lineLen := rfl
@[simp] theorem recordPalette_none_pix (s : State) : (recordPalette none s).pix = s.pix := rfl
@[simp] theorem recordPalette_none_phase (s : State) : (recordPalette none s).phase = .formatSelect := rfl
@[simp] theorem recordPalette_none_point (s : State) : (recordPalette none s).point = .enter := rfl
@[simp] theorem recordPalette_none_y (s : State) : (recordPalette none s).y = s.y := rfl
@[simp] theorem recordPalette_none_p (s : State) : (recordPalette none s).p = s.p := rfl
@[simp] theorem recordPalette_none_n (s : State) : (recordPalette none s).n = s.n := rfl
@[simp] theorem recordPalette_none_file (s : State) : (recordPalette none s).file = s.file := rfl
@[simp] theorem recordPalette_none_host (s : State) : (recordPalette none s).host = s.host := rfl
@[simp] theorem recordPalette_none_rdata (s : State) : (recordPalette none s).rdata = s.rdata := rfl

end Sys2Proof.Machine
end

