-- ==== Sys2Proof/Laws/Ops.lean ====
section
/-! SUPPORT. What each shared operation can do: the outcomes, the reads that may stop, the triples of a table, the units, the
capacities and the rows of the format table. -/

namespace Sys2Proof.Machine

/-! ## Outcomes -/

@[simp] theorem outcomeOf_ok (s : State) : outcomeOf (.ok s) = .next s := rfl

theorem outcomeOf_next {r : Except Stop State} {t : State} : outcomeOf r = .next t ↔ r = .ok t := by
  rcases r with (_ | _) | _ <;> simp [outcomeOf]

theorem outcomeOf_fault {r : Except Stop State} {f : Fault} : outcomeOf r = .fault f ↔ r = .error (.fault f) := by
  rcases r with (_ | _) | _ <;> simp [outcomeOf]

/-- The peel of one operation that may stop off a sequence of them. -/
theorem bind_ok {α β : Type} {x : Except Stop α} {f : α → Except Stop β} {b : β} :
    (x >>= f) = .ok b ↔ ∃ a, x = .ok a ∧ f a = .ok b := by
  cases x <;> simp [bind, Except.bind]

theorem pure_ok {α : Type} {a b : α} : (pure a : Except Stop α) = .ok b ↔ a = b := by simp [pure, Except.pure]

/-! ## Reads -/

theorem fileByte_ok {s : State} {a : Nat} {b : Byte} :
    fileByte s a = .ok b ↔ a < s.fileLen ∧ s.file.get a = some b := by
  unfold fileByte
  by_cases h : a < s.fileLen
  · cases hg : s.file.get a <;> simp [h]
  · simp [h]

/-- Below FILE_LEN a read never faults. -/
theorem fileByte_error {s : State} {a : Nat} (h : a < s.fileLen) {e : Stop} (he : fileByte s a = .error e) :
    e = .refusal .fileByteNoValue := by
  unfold fileByte at he
  rw [if_pos h] at he
  split at he
  · cases he
  · cases he; rfl

theorem fileByte_congr {s t : State} {a : Nat} (hl : t.fileLen = s.fileLen) (hf : t.file.get a = s.file.get a) :
    fileByte t a = fileByte s a := by
  unfold fileByte; rw [hl, hf]

theorem header_ok {s : State} {h : Header} : header s = .ok h ↔ s.hdr = some h := by
  unfold header; cases s.hdr <;> simp

theorem dimensions_ok {s : State} {d : Dims} : dimensions s = .ok d ↔ s.dims = some d := by
  unfold dimensions; cases s.dims <;> simp

theorem boundaryOffset_ok {s : State} {e : Nat} : boundaryOffset s = .ok e ↔ s.boundary = some e := by
  unfold boundaryOffset; cases s.boundary <;> simp

theorem fileTriple_ok {s : State} {a : Nat} {t : Rgb} :
    fileTriple s a = .ok t ↔ fileByte s a = .ok t.r ∧ fileByte s (a + 1) = .ok t.g ∧ fileByte s (a + 2) = .ok t.b := by
  unfold fileTriple
  simp only [bind_ok, pure_ok]
  constructor
  · rintro ⟨r, hr, g, hg, b, hb, rfl⟩
    exact ⟨hr, hg, hb⟩
  · rintro ⟨hr, hg, hb⟩
    exact ⟨_, hr, _, hg, _, hb, rfl⟩

/-- A table of `k` triples has `k` entries, entry `i` the triple at `base + 3 i` (30_encoding.md R96, R97). -/
theorem fileTriples_ok {s : State} {k : Nat} : ∀ {base : Nat} {ts : List Rgb}, fileTriples s base k = .ok ts →
    ts.length = k ∧ ∀ i (hi : i < ts.length), fileTriple s (base + 3 * i) = .ok ts[i] := by
  induction k with
  | zero =>
    intro base ts h
    simp only [fileTriples, pure_ok] at h
    subst h
    exact ⟨rfl, fun i hi => absurd hi (Nat.not_lt_zero _)⟩
  | succ k ih =>
    intro base ts h
    simp only [fileTriples, bind_ok, pure_ok] at h
    obtain ⟨t, ht, ts', hts, rfl⟩ := h
    obtain ⟨hl, he⟩ := ih hts
    refine ⟨by simp [hl], fun i hi => ?_⟩
    cases i with
    | zero => simpa using ht
    | succ i =>
      have := he i (by simpa using hi)
      rw [show base + 3 * (i + 1) = base + 3 + 3 * i by omega]
      simpa using this

/-- Where every byte of a table was written, the table is read. -/
theorem fileTriples_exists {s : State} {k : Nat} : ∀ {base : Nat},
    (∀ a, base ≤ a → a < base + 3 * k → ∃ b, fileByte s a = .ok b) → ∃ ts, fileTriples s base k = .ok ts := by
  induction k with
  | zero => intro base _; exact ⟨[], rfl⟩
  | succ k ih =>
    intro base hb
    obtain ⟨r, hr⟩ := hb base (by omega) (by omega)
    obtain ⟨g, hg⟩ := hb (base + 1) (by omega) (by omega)
    obtain ⟨b, hb'⟩ := hb (base + 2) (by omega) (by omega)
    obtain ⟨ts, hts⟩ := ih (base := base + 3) (fun a h1 h2 => hb a (by omega) (by omega))
    refine ⟨⟨r, g, b⟩ :: ts, ?_⟩
    simp only [fileTriples, bind_ok, pure_ok]
    exact ⟨_, fileTriple_ok.2 ⟨hr, hg, hb'⟩, _, hts, rfl⟩

/-- A table with one byte at which the read stops is not read; below FILE_LEN it stops by a byte that holds no value. -/
theorem fileTriples_error {s : State} {k : Nat} : ∀ {base : Nat}, base + 3 * k ≤ s.fileLen → ∀ {e : Stop},
    fileTriples s base k = .error e → e = .refusal .fileByteNoValue := by
  induction k with
  | zero => intro base _ e h; cases h
  | succ k ih =>
    intro base hb e h
    cases h1 : fileByte s base with
    | error e1 =>
      simp [fileTriples, fileTriple, h1, bind, Except.bind] at h
      rw [← h]; exact fileByte_error (by omega) h1
    | ok r =>
      cases h2 : fileByte s (base + 1) with
      | error e2 =>
        simp [fileTriples, fileTriple, h1, h2, bind, Except.bind] at h
        rw [← h]; exact fileByte_error (by omega) h2
      | ok g =>
        cases h3 : fileByte s (base + 2) with
        | error e3 =>
          simp [fileTriples, fileTriple, h1, h2, h3, bind, Except.bind] at h
          rw [← h]; exact fileByte_error (by omega) h3
        | ok b =>
          cases h4 : fileTriples s (base + 3) k with
          | error e4 =>
            simp [fileTriples, fileTriple, h1, h2, h3, h4, bind, Except.bind, pure, Except.pure] at h
            rw [← h]; exact ih (by omega) h4
          | ok ts => simp [fileTriples, fileTriple, h1, h2, h3, h4, bind, Except.bind, pure, Except.pure] at h

/-! ## Units -/

/-- What a unit the decoder reads does: one copy of its byte, or the clipped copies of a run's value. -/
theorem exec_unit {s t : State} {bytes rest : List Byte} {i : Instr} (hd : decodeUnit bytes = .ok (i, rest))
    (h : exec i s = .next t) :
    (∃ v, t = appendUnit 1 1 v s) ∨
      (∃ c v hd, s.hdr = some hd ∧ t = appendUnit 2 (runCopies c hd.bytesPerLine s.n) v s) := by
  cases bytes with
  | nil => simp [decodeUnit] at hd
  | cons b bs =>
    simp only [decodeUnit] at hd
    split at hd
    · cases bs with
      | nil => simp at hd
      | cons v bs' =>
        simp only [Except.ok.injEq, Prod.mk.injEq] at hd
        obtain ⟨rfl, -⟩ := hd
        simp only [exec, execRun, outcomeOf_next, runUnit, bind_ok, pure_ok, header_ok] at h
        obtain ⟨hh, h1, rfl⟩ := h
        exact .inr ⟨_, _, hh, h1, rfl⟩
    · split at hd
      · simp only [Except.ok.injEq, Prod.mk.injEq] at hd
        obtain ⟨rfl, -⟩ := hd
        simp only [exec, execLiteralLow, Host.Outcome.next.injEq] at h
        exact .inl ⟨_, h.symm⟩
      · simp only [Except.ok.injEq, Prod.mk.injEq] at hd
        obtain ⟨rfl, -⟩ := hd
        simp only [exec, execLiteralHigh, Host.Outcome.next.injEq] at h
        exact .inl ⟨_, h.symm⟩

/-- Copies of a run never exceed what the call still needs (43_rle_decode.md R173). -/
theorem runCopies_le (c : BitVec 6) (b n : BitVec 16) : runCopies c b n ≤ b.toNat - n.toNat := Nat.min_le_right _ _

theorem runCopies_lt (c : BitVec 6) (b n : BitVec 16) : runCopies c b n < 64 :=
  Nat.lt_of_le_of_lt (Nat.min_le_left _ _) c.isLt

/-! ## DIMS -/

/-- A dimension is at most 65536 (R144). -/
theorem extent_le (lo hi : Half) : (extent lo hi).toNat ≤ 65536 := by
  have := hi.isLt
  unfold extent
  omega

/-- The capacities of R6 hold every header (92 D30, 93 U14). -/
theorem holdsHeader_standard (h : Header) : holdsHeader Config.Params.standard h = true := by
  have hx := extent_le h.xmin h.xmax
  have hy := extent_le h.ymin h.ymax
  have e : ∀ n, n ≤ 65536 → (BitVec.ofNat 17 n).toNat = n := fun n hn => by
    rw [BitVec.toNat_ofNat, Nat.mod_eq_of_lt (by omega)]
  have h1 : h.numPlanes.toNat * h.bytesPerLine.toNat ≤ 255 * 65535 := Nat.mul_le_mul (by omega) (by omega)
  have h2 := Nat.mul_le_mul hy hx
  simp [holdsHeader, dimsOf, Config.Params.standard, e _ hx, e _ hy, h1, h2]

/-! ## Rows of the format table -/

/-- What a row of the format table does, at either of its two points. -/
theorem formatRow_ok {f : PixelFormat} {prepare : State → State} {px : State → Nat → Option Rgb} {s t : State} :
    formatRow f prepare px s = .ok t ↔
      (s.phase ≠ .decode ∧ t = selectFormat f (prepare s)) ∨
      (s.phase = .decode ∧ ∃ d, s.dims = some d ∧
        t = nextRow { s with pix := putRow s.y.toNat (px s) d.cols.toNat s.pix }) := by
  unfold formatRow assembleRow
  split
  · next h =>
    simp only [bind_ok, pure_ok, dimensions_ok]
    constructor
    · rintro ⟨d, hd, rfl⟩
      exact .inr ⟨h, d, hd, rfl⟩
    · rintro (⟨h', -⟩ | ⟨-, d, hd, rfl⟩)
      · exact absurd h h'
      · exact ⟨d, hd, rfl⟩
  · next h =>
    rw [pure_ok]
    constructor
    · rintro rfl
      exact .inl ⟨h, rfl⟩
    · rintro (⟨-, rfl⟩ | ⟨h', -⟩)
      · rfl
      · exact absurd h' h

/-- What any instruction of the format table does: FORMAT and perhaps LUMA at its selection, one row of PIX in the real pass. -/
theorem exec_format {s t : State} {i : Instr} (hi : isFormatInstr i = true) (h : exec i s = .next t) :
    (s.phase ≠ .decode ∧ ∃ f, t = selectFormat f s ∨ t = selectFormat f (buildLuma s)) ∨
    (s.phase = .decode ∧ ∃ d px, s.dims = some d ∧
      t = nextRow { s with pix := putRow s.y.toNat px d.cols.toNat s.pix }) := by
  cases i <;> simp only [isFormatInstr, Bool.false_eq_true] at hi <;>
    simp only [exec, execFmtRgb24, execFmtIndexedViaLuma, execFmtGray8, execFmtFallback, outcomeOf_next, formatRow_ok] at h <;>
    rcases h with ⟨h1, h2⟩ | ⟨h1, d, h2, h3⟩
  all_goals first
    | exact .inl ⟨h1, _, .inl h2⟩
    | exact .inl ⟨h1, _, .inr h2⟩
    | exact .inr ⟨h1, d, _, h2, h3⟩

theorem isFormatInstr_decodeKey (k : BitVec 17) : isFormatInstr (decodeKey k) = true := by
  unfold decodeKey
  split
  · rfl
  · split
    · rfl
    · split <;> rfl

theorem isFormatInstr_formatInstr (h : Header) (s : State) : isFormatInstr (formatInstr h s) = true := by
  unfold formatInstr; split <;> rfl

end Sys2Proof.Machine
end

