-- ==== Sys2Proof/Laws/Palette.lean ====
section
/-! SUPPORT. What the header parser and the palette's strategies can answer (spec/41_header_parse.md R142,
spec/42_palette_extract.md R150 to R161). -/

namespace Sys2Proof.Machine

/-- The header's table has 16 entries. -/
theorem readHeader_hpal {s : State} {h : Header} (hr : readHeader s = .ok h) : h.hpal.length = 16 := by
  unfold readHeader at hr
  simp only [bind_ok, pure_ok] at hr
  obtain ⟨_, _, _, _, _, _, _, _, _, _, _, _, _, _, _, _, _, _, _, _, hp, ht, _, _, _, _, _, _, _, _, _, _, rfl⟩ := hr
  exact (fileTriples_ok ht).1

/-- S1 to S4 answer a table of 256 triples of the file, and one of their own codes. -/
theorem search256_some {s : State} {e : Nat} {l : List Rgb} {src : PalSrc} (h : search256 s e = .ok (some (l, src))) :
    src ≠ .absent ∧ src ≠ .s5 ∧ l.length = 256 ∧ ∃ base, fileTriples s base 256 = .ok l := by
  unfold search256 parse768 at h
  rw [bind_ok] at h
  obtain ⟨m, -, h⟩ := h
  split at h
  · rw [bind_ok] at h
    obtain ⟨ts, ht, h⟩ := h
    simp only [pure_ok, Option.some.injEq, Prod.mk.injEq] at h
    obtain ⟨rfl, rfl⟩ := h
    exact ⟨by simp, by simp, (fileTriples_ok ht).1, _, ht⟩
  · split at h
    · rw [bind_ok] at h
      obtain ⟨ts, ht, h⟩ := h
      simp only [pure_ok, Option.some.injEq, Prod.mk.injEq] at h
      obtain ⟨rfl, rfl⟩ := h
      exact ⟨by simp, by simp, (fileTriples_ok ht).1, _, ht⟩
    · rw [bind_ok] at h
      obtain ⟨m2, -, h⟩ := h
      split at h
      · rw [bind_ok] at h
        obtain ⟨ts, ht, h⟩ := h
        simp only [pure_ok, Option.some.injEq, Prod.mk.injEq] at h
        obtain ⟨rfl, rfl⟩ := h
        exact ⟨by simp, by simp, (fileTriples_ok ht).1, _, ht⟩
      · split at h
        · rw [bind_ok] at h
          obtain ⟨ts, ht, h⟩ := h
          simp only [pure_ok, Option.some.injEq, Prod.mk.injEq] at h
          obtain ⟨rfl, rfl⟩ := h
          exact ⟨by simp, by simp, (fileTriples_ok ht).1, _, ht⟩
        · simp [pure_ok] at h

theorem headerPalette_some {h : Header} {l : List Rgb} {src : PalSrc} (hp : headerPalette h = some (l, src)) :
    l = h.hpal ∧ src = .s5 ∧ h.bpp.toNat ≤ 4 := by
  unfold headerPalette at hp
  split at hp
  · next hb =>
    simp only [Option.some.injEq, Prod.mk.injEq] at hp
    exact ⟨hp.1.symm, hp.2.symm, hb⟩
  · cases hp

/-- A palette that is found has a source, and as many entries as its source says (R161). -/
theorem findPalette_some {h : Header} {s : State} {l : List Rgb} {src : PalSrc} (hf : findPalette h s = .ok (some (l, src)))
    (hh : h.hpal.length = 16) : src ≠ .absent ∧ l.length = src.count.toNat ∧ (src = .s5 → h.bpp.toNat ≤ 4) := by
  have h5 : headerPalette h = some (l, src) → src ≠ .absent ∧ l.length = src.count.toNat ∧ (src = .s5 → h.bpp.toNat ≤ 4) := by
    intro hp
    obtain ⟨rfl, rfl, hb⟩ := headerPalette_some hp
    exact ⟨by simp, hh, fun _ => hb⟩
  unfold findPalette at hf
  split at hf
  · simp only [bind_ok, pure_ok] at hf
    obtain ⟨e, -, o, hs, ho⟩ := hf
    cases o with
    | none => exact h5 (by simpa using ho)
    | some x =>
      obtain ⟨a, b⟩ := x
      simp at ho
      obtain ⟨rfl, rfl⟩ := ho
      obtain ⟨r1, r2, r3, -⟩ := search256_some hs
      refine ⟨r1, ?_, fun h => absurd h r2⟩
      rw [r3]
      cases b <;> first | rfl | exact absurd rfl r1 | exact absurd rfl r2
  · rw [pure_ok] at hf
    exact h5 hf

end Sys2Proof.Machine
end

