-- ==== Sys2Proof/Laws/PerInstr.lean ====
section
/-! SUPPORT. The family RowMatch: the code of every well-formed instruction meets the match and mask spec/opcode_table.json gives
its row, and a Fallback key meets none of the rows tested before it (30_encoding.md R102). -/

namespace Sys2Proof.Laws.RowMatch

/-- The number `match` and `mask` are compared with: a unit's first byte, a key, a CTRL word. -/
def word (i : Instr) : Nat :=
  match encode i with
  | .unit bytes => (bytes.headD 0).toNat
  | .key k => k.toNat
  | .ctrl w => w.toNat

/-- `mask` and `match` of a row, as the table prints them. -/
def row : Instr → Nat × Nat
  | .literalLow _ => (0x80, 0x00)
  | .literalHigh _ => (0xC0, 0x80)
  | .run _ _ => (0xC0, 0xC0)
  | .fmtRgb24 _ => (0x0FFFF, 0x00308)
  | .fmtIndexedViaLuma => (0x1FFFF, 0x10108)
  | .fmtGray8 => (0x1FFFF, 0x00108)
  | .fmtFallback _ _ _ => (0x00000, 0x00000)
  | .start _ => (0x3, 0x1)
  | .reset _ _ => (0x2, 0x2)
  | .ctrlNop _ => (0x3, 0x0)

/-- The code meets its row; a Fallback key meets no row above its own. -/
def Statement (i : Instr) : Prop :=
  i.wf = true → word i &&& (row i).1 = (row i).2 ∧
    ∀ p np bpp, i = .fmtFallback p np bpp →
      word i &&& 0x0FFFF ≠ 0x00308 ∧ word i &&& 0x1FFFF ≠ 0x10108 ∧ word i &&& 0x1FFFF ≠ 0x00108

theorem literalLow (v : Byte) : Statement (.literalLow v) := by
  refine fun h => ⟨?_, fun _ _ _ e => by cases e⟩
  simp only [Instr.wf, decide_eq_true_eq] at h
  show v.toNat &&& 0x80 = 0x00
  revert v
  decide

theorem literalHigh (v : Byte) : Statement (.literalHigh v) := by
  refine fun h => ⟨?_, fun _ _ _ e => by cases e⟩
  simp only [Instr.wf, Bool.and_eq_true, decide_eq_true_eq] at h
  show v.toNat &&& 0xC0 = 0x80
  revert v
  decide

theorem run (c : BitVec 6) (v : Byte) : Statement (.run c v) := by
  refine fun h => ⟨?_, fun _ _ _ e => by cases e⟩
  clear h
  show (0b11#2 ++ c : BitVec 8).toNat &&& 0xC0 = 0xC0
  revert c
  decide

theorem fmtRgb24 (p : Bool) : Statement (.fmtRgb24 p) :=
  fun _ => ⟨by cases p <;> decide, fun _ _ _ e => by cases e⟩

theorem fmtIndexedViaLuma : Statement .fmtIndexedViaLuma :=
  fun _ => ⟨by decide, fun _ _ _ e => by cases e⟩

theorem fmtGray8 : Statement .fmtGray8 :=
  fun _ => ⟨by decide, fun _ _ _ e => by cases e⟩

theorem fmtFallback (p : Bool) (np bpp : Byte) : Statement (.fmtFallback p np bpp) := by
  intro h
  simp only [Instr.wf, isRealFormat, Bool.not_eq_true', Bool.and_eq_false_iff, Bool.or_eq_false_iff, beq_eq_false_iff_ne, ne_eq,
    BitVec.toNat_eq, show BitVec.toNat (8 : Byte) = 8 from rfl, show BitVec.toNat (3 : Byte) = 3 from rfl,
    show BitVec.toNat (1 : Byte) = 1 from rfl] at h
  have h1 := np.isLt
  have h2 := bpp.isLt
  have hw : word (.fmtFallback p np bpp) = 65536 * p.toNat + 256 * np.toNat + bpp.toNat := formatKey_toNat p np bpp
  have hl : word (.fmtFallback p np bpp) &&& 0x0FFFF = word (.fmtFallback p np bpp) % 65536 :=
    Nat.and_two_pow_sub_one_eq_mod _ 16
  have ha : word (.fmtFallback p np bpp) &&& 0x1FFFF = word (.fmtFallback p np bpp) % 131072 :=
    Nat.and_two_pow_sub_one_eq_mod _ 17
  refine ⟨Nat.and_zero _, fun _ _ _ _ => ?_⟩
  rw [hl, ha, hw]
  cases p <;> simp only [Bool.toNat_false, Bool.toNat_true] <;> omega

theorem start (ig : BitVec 30) : Statement (.start ig) := by
  refine fun _ => ⟨?_, fun _ _ _ e => by cases e⟩
  show (ig ++ 0b01#2 : BitVec 32).toNat &&& 0x3 = 0x1
  rw [ctrlWord_toNat, show (3 : Nat) = 2 ^ 2 - 1 from rfl, Nat.and_two_pow_sub_one_eq_mod]
  simp

theorem reset (st : Bool) (ig : BitVec 30) : Statement (.reset st ig) := by
  refine fun _ => ⟨?_, fun _ _ _ e => by cases e⟩
  have h : (ig ++ 0b1#1 ++ BitVec.ofBool st : BitVec 32).toNat % 4 = 2 + st.toNat := by
    rw [BitVec.toNat_append, Nat.shiftLeft_eq, BitVec.toNat_append, Nat.shiftLeft_eq, Nat.mul_comm _ (2 ^ 1),
      ← Nat.two_pow_add_eq_or_of_lt (BitVec.ofBool st).isLt, Nat.mul_comm _ (2 ^ 1), ← Nat.two_pow_add_eq_or_of_lt (by cases st <;> decide)]
    cases st <;> simp <;> omega
  have h2 := (ctrlWord_and_two (ig ++ 0b1#1 ++ BitVec.ofBool st)).2 (by rw [h]; cases st <;> decide)
  exact congrArg BitVec.toNat h2

theorem ctrlNop (ig : BitVec 30) : Statement (.ctrlNop ig) := by
  refine fun _ => ⟨?_, fun _ _ _ e => by cases e⟩
  show (ig ++ 0b00#2 : BitVec 32).toNat &&& 0x3 = 0x0
  rw [ctrlWord_toNat, show (3 : Nat) = 2 ^ 2 - 1 from rfl, Nat.and_two_pow_sub_one_eq_mod]
  simp

end Sys2Proof.Laws.RowMatch
end

