-- ==== Sys2Proof/Laws/Rle.lean ====
section
/-! SUPPORT. What fetching a unit reads, and how a fetched unit moves N and CURSOR (spec/43_rle_decode.md R170, R182). -/

namespace Sys2Proof.Machine

/-- The fetch reads one byte, or two when the first is a run header and the file has a byte after it. -/
theorem fetchUnit_ok {s : State} {bytes : List Byte} (h : fetchUnit s = .ok bytes) :
    (∃ b, fileByte s s.cursor = .ok b ∧ bytes = [b] ∧ ¬(unitLength b = 2 ∧ s.cursor + 1 < s.fileLen)) ∨
    (∃ b v, fileByte s s.cursor = .ok b ∧ fileByte s (s.cursor + 1) = .ok v ∧ bytes = [b, v] ∧
      unitLength b = 2 ∧ s.cursor + 1 < s.fileLen) := by
  unfold fetchUnit at h
  rw [bind_ok] at h
  obtain ⟨b, hb, h⟩ := h
  split at h
  · next hc =>
    rw [bind_ok] at h
    obtain ⟨v, hv, h⟩ := h
    rw [pure_ok] at h
    exact .inr ⟨b, v, hb, hv, h.symm, hc.1, hc.2⟩
  · next hc =>
    rw [pure_ok] at h
    exact .inl ⟨b, hb, h.symm, hc⟩

theorem unitLength_two {b : Byte} : unitLength b = 2 ↔ isRunHeader b = true := by
  unfold unitLength
  split <;> simp_all

theorem unitDue_iff {h : Header} {s : State} :
    unitDue h s = true ↔ s.n.toNat < h.bytesPerLine.toNat ∧ s.cursor < s.fileLen := by
  simp [unitDue]

/-- A fetched unit that executes appends within the budget and moves CURSOR by its own length within the file. -/
theorem unit_moves {s t : State} {h : Header} {bytes rest : List Byte} {i : Instr} (hh : s.hdr = some h)
    (hu : unitDue h s = true) (hf : fetchUnit s = .ok bytes) (hd : decodeUnit bytes = .ok (i, rest)) (he : exec i s = .next t) :
    ∃ len k v, t = appendUnit len k v s ∧ s.n.toNat + k ≤ h.bytesPerLine.toNat ∧ s.cursor + len ≤ s.fileLen ∧
      (len = 1 ∨ len = 2) := by
  rw [unitDue_iff] at hu
  rcases exec_unit hd he with ⟨v, rfl⟩ | ⟨c, v, h', h1, rfl⟩
  · exact ⟨1, 1, v, rfl, by omega, by omega, .inl rfl⟩
  · rw [hh] at h1
    cases h1
    have := runCopies_le c h.bytesPerLine s.n
    rcases fetchUnit_ok hf with ⟨b, hb, rfl, hn⟩ | ⟨b, w, hb, hv, rfl, h2, h3⟩
    · simp only [decodeUnit] at hd
      split at hd
      · simp at hd
      · split at hd <;> simp only [Except.ok.injEq, Prod.mk.injEq] at hd <;> obtain ⟨rfl, -⟩ := hd <;>
          simp only [exec, execLiteralLow, execLiteralHigh, literalUnit, Host.Outcome.next.injEq] at he <;>
          exact ⟨1, 1, b, he.symm, by omega, by omega, .inl rfl⟩
    · exact ⟨2, _, v, rfl, by omega, by omega, .inr rfl⟩

/-- Only a run header that is the last byte of the file is not a unit (R176). -/
theorem truncated_at_end {s : State} {bytes : List Byte} {r : DecodeReject} (hc : s.cursor < s.fileLen)
    (hf : fetchUnit s = .ok bytes) (hd : decodeUnit bytes = .error r) : s.cursor + 1 = s.fileLen := by
  rcases fetchUnit_ok hf with ⟨b, -, rfl, hn⟩ | ⟨b, w, -, -, rfl, h2, -⟩
  · simp only [decodeUnit] at hd
    split at hd
    · next hr =>
      rw [unitLength_two] at hn
      simp only [hr, true_and] at hn
      omega
    · split at hd <;> simp at hd
  · rw [unitLength_two] at h2
    simp [decodeUnit, h2] at hd

/-! ## The end of a call -/

/-- A call of the dry run leaves only the loop's registers (R178). -/
theorem endCall_dry {h : Header} {d : Dims} {s : State} (hs : storing s = false) : endCall h d s = nextPlane s := by
  unfold endCall
  rw [hs]
  rfl

/-- A call of the real pass leaves its length, trimmed, and TRUNC (R170, R183). -/
theorem endCall_real {h : Header} {d : Dims} {s : State} (hs : storing s = true) :
    endCall h d s = nextPlane { s with
      lineLen := (s.lineLen.set s.p.toNat s.n).set s.p.toNat (if d.cols.toNat < s.n.toNat then d.cols.setWidth 16 else s.n)
      status := { s.status with trunc := truncAfter s.status.trunc s.n h.bytesPerLine } } := by
  have e : (closeCall h s).lineLen.get (closeCall h s).p.toNat = some s.n := Memory.get_set_self _ _ _
  unfold endCall trimLine
  rw [if_pos hs, e]
  rfl

/-- Nothing but LINE_LEN, TRUNC, P and N ends a call. -/
theorem endCall_eta (h : Header) (d : Dims) (s : State) :
    endCall h d s = { s with
      lineLen := (endCall h d s).lineLen
      status := { s.status with trunc := (endCall h d s).status.trunc }
      p := s.p + 1
      n := 0 } := by
  cases hs : storing s
  · rw [endCall_dry hs]; rfl
  · rw [endCall_real hs]; rfl

end Sys2Proof.Machine
end

