-- ==== Sys2Proof/Laws/Progress.lean ====
section
/-! SUPPORT. When the operations that read FILE go on: on a written file each answers a value, on any file none faults, and two
states with the same bytes below FILE_LEN read alike (spec/20_memory.md R61, spec/10_state.md R39). -/

namespace Sys2Proof.Machine

/-! ## No fault -/

/-- The operation may be refused but does not fault. -/
def NoFault {α : Type} (x : Except Stop α) : Prop := ∀ f, x ≠ .error (.fault f)

theorem NoFault.pure {α : Type} (a : α) : NoFault (Pure.pure a : Except Stop α) := by
  intro f h
  cases h

theorem NoFault.ok {α : Type} (a : α) : NoFault (.ok a : Except Stop α) := NoFault.pure a

theorem NoFault.bind {α β : Type} {x : Except Stop α} {f : α → Except Stop β} (hx : NoFault x)
    (hf : ∀ a, x = .ok a → NoFault (f a)) : NoFault (x >>= f) := by
  intro e h
  cases hx' : x with
  | error e' =>
    rw [hx'] at h
    simp only [Bind.bind, Except.bind, Except.error.injEq] at h
    subst h
    exact hx e hx'
  | ok a =>
    rw [hx'] at h
    exact hf a hx' e h

theorem NoFault.outcome {r : Except Stop State} (h : NoFault r) (f : Fault) : outcomeOf r ≠ .fault f := by
  intro he
  exact h f (outcomeOf_fault.1 he)

theorem fileByte_noFault {s : State} {a : Nat} (h : a < s.fileLen) : NoFault (fileByte s a) := by
  intro f he
  cases fileByte_error h he

theorem fileHalf_noFault {s : State} {a : Nat} (h : a + 1 < s.fileLen) : NoFault (fileHalf s a) :=
  .bind (fileByte_noFault (by omega)) fun _ _ => .bind (fileByte_noFault h) fun _ _ => .pure _

theorem fileTriples_noFault {s : State} {base k : Nat} (h : base + 3 * k ≤ s.fileLen) : NoFault (fileTriples s base k) := by
  intro f he
  cases fileTriples_error h he

theorem header_noFault (s : State) : NoFault (header s) := by
  intro f h
  unfold header at h
  split at h <;> cases h

theorem dimensions_noFault (s : State) : NoFault (dimensions s) := by
  intro f h
  unfold dimensions at h
  split at h <;> cases h

theorem boundaryOffset_noFault (s : State) : NoFault (boundaryOffset s) := by
  intro f h
  unfold boundaryOffset at h
  split at h <;> cases h

theorem fetchUnit_noFault {s : State} (h : s.cursor < s.fileLen) : NoFault (fetchUnit s) := by
  refine .bind (fileByte_noFault h) fun b _ => ?_
  split
  · next hc => exact .bind (fileByte_noFault hc.2) fun _ _ => .pure _
  · exact .pure _

theorem readHeader_noFault {s : State} (h : 128 ≤ s.fileLen) : NoFault (readHeader s) := by
  unfold readHeader
  repeat' first
    | exact NoFault.pure _
    | refine NoFault.bind (fileByte_noFault (by omega)) fun _ _ => ?_
    | refine NoFault.bind (fileHalf_noFault (by omega)) fun _ _ => ?_
    | refine NoFault.bind (fileTriples_noFault (by simp only [Config.hpalEntries]; omega)) fun _ _ => ?_

theorem markerAt_noFault {s : State} {there : Prop} [Decidable there] {a : Nat} (h : there → a < s.fileLen) :
    NoFault (markerAt s there a) := by
  unfold markerAt
  split
  · next ht => exact .bind (fileByte_noFault (h ht)) fun _ _ => .pure _
  · exact .pure _

theorem search256_noFault (s : State) (e : Nat) : NoFault (search256 s e) := by
  unfold search256 parse768
  refine .bind (markerAt_noFault fun h => h) fun m _ => ?_
  split
  · next h => exact .bind (fileTriples_noFault (by simp only [Config.pal256Entries]; omega)) fun _ _ => .pure _
  · split
    · next h =>
      exact .bind (fileTriples_noFault (by simp only [Config.pal256Entries, Config.pal256Bytes] at *; omega)) fun _ _ => .pure _
    · refine .bind (markerAt_noFault fun h => by omega) fun m2 hm2 => ?_
      split
      · next h =>
        refine .bind (fileTriples_noFault ?_) fun _ _ => .pure _
        unfold markerAt at hm2
        split at hm2
        · next hl => simp only [Config.pal256Entries, Config.pal256Bytes] at *; omega
        · rw [pure_ok] at hm2
          subst hm2
          cases h
      · split
        · next hl =>
          exact .bind (fileTriples_noFault (by simp only [Config.pal256Entries, Config.pal256Bytes] at *; omega))
            fun _ _ => .pure _
        · exact .pure _

theorem findPalette_noFault (h : Header) (s : State) : NoFault (findPalette h s) := by
  unfold findPalette
  split
  · exact .bind (boundaryOffset_noFault s) fun _ _ => .bind (search256_noFault s _) fun _ _ => .pure _
  · exact .pure _

/-! ## A written file -/

theorem fileByte_written {s : State} (hw : FileWritten s) {a : Nat} (h : a < s.fileLen) : ∃ b, fileByte s a = .ok b := by
  obtain ⟨b, hb⟩ := Option.isSome_iff_exists.1 (hw a h)
  exact ⟨b, fileByte_ok.2 ⟨h, hb⟩⟩

theorem fileHalf_written {s : State} (hw : FileWritten s) {a : Nat} (h : a + 1 < s.fileLen) : ∃ v, fileHalf s a = .ok v := by
  obtain ⟨lo, hlo⟩ := fileByte_written hw (show a < s.fileLen by omega)
  obtain ⟨hi, hhi⟩ := fileByte_written hw h
  exact ⟨u16 lo hi, by simp only [fileHalf, bind_ok, pure_ok]; exact ⟨lo, hlo, hi, hhi, rfl⟩⟩

theorem fileTriples_written {s : State} (hw : FileWritten s) {base k : Nat} (h : base + 3 * k ≤ s.fileLen) :
    ∃ ts, fileTriples s base k = .ok ts :=
  fileTriples_exists fun _ _ h2 => fileByte_written hw (by omega)

theorem fetchUnit_written {s : State} (hw : FileWritten s) (h : s.cursor < s.fileLen) :
    ∃ bytes, fetchUnit s = .ok bytes := by
  obtain ⟨b, hb⟩ := fileByte_written hw h
  unfold fetchUnit
  by_cases hc : unitLength b = 2 ∧ s.cursor + 1 < s.fileLen
  · obtain ⟨v, hv⟩ := fileByte_written hw hc.2
    exact ⟨[b, v], by simp only [bind_ok]; exact ⟨b, hb, by rw [if_pos hc, bind_ok]; exact ⟨v, hv, rfl⟩⟩⟩
  · exact ⟨[b], by simp only [bind_ok]; exact ⟨b, hb, by rw [if_neg hc]; rfl⟩⟩

theorem readHeader_written {s : State} (hw : FileWritten s) (h : 128 ≤ s.fileLen) : ∃ hd, readHeader s = .ok hd := by
  have byte : ∀ a, a < 128 → ∃ b, fileByte s a = .ok b := fun a ha => fileByte_written hw (by omega)
  have half : ∀ a, a < 127 → ∃ b, fileHalf s a = .ok b := fun a ha => fileHalf_written hw (by omega)
  obtain ⟨b0, h0⟩ := byte 0 (by omega)
  obtain ⟨b1, h1⟩ := byte 1 (by omega)
  obtain ⟨b2, h2⟩ := byte 2 (by omega)
  obtain ⟨b3, h3⟩ := byte 3 (by omega)
  obtain ⟨b4, h4⟩ := half 4 (by omega)
  obtain ⟨b6, h6⟩ := half 6 (by omega)
  obtain ⟨b8, h8⟩ := half 8 (by omega)
  obtain ⟨b10, h10⟩ := half 10 (by omega)
  obtain ⟨b12, h12⟩ := half 12 (by omega)
  obtain ⟨b14, h14⟩ := half 14 (by omega)
  obtain ⟨ts, ht⟩ := fileTriples_written hw (base := 16) (k := Config.hpalEntries) (by simp only [Config.hpalEntries]; omega)
  obtain ⟨b65, h65⟩ := byte 65 (by omega)
  obtain ⟨b66, h66⟩ := half 66 (by omega)
  obtain ⟨b68, h68⟩ := half 68 (by omega)
  obtain ⟨b70, h70⟩ := half 70 (by omega)
  obtain ⟨b72, h72⟩ := half 72 (by omega)
  unfold readHeader
  simp only [bind_ok, pure_ok]
  exact ⟨_, b0, h0, b1, h1, b2, h2, b3, h3, b4, h4, b6, h6, b8, h8, b10, h10, b12, h12, b14, h14, ts, ht, b65, h65, b66, h66,
    b68, h68, b70, h70, b72, h72, rfl⟩

theorem markerAt_written {s : State} (hw : FileWritten s) {there : Prop} [Decidable there] {a : Nat}
    (h : there → a < s.fileLen) : ∃ m, markerAt s there a = .ok m ∧ (m = true → there) := by
  unfold markerAt
  split
  · next ht =>
    obtain ⟨b, hb⟩ := fileByte_written hw (h ht)
    exact ⟨b == Config.palMarker, by rw [bind_ok]; exact ⟨b, hb, rfl⟩, fun _ => ht⟩
  · exact ⟨false, rfl, fun h => by cases h⟩

theorem bind_answers {α β : Type} {x : Except Stop α} {f : α → Except Stop β} {a : α} (hx : x = .ok a)
    (hf : ∃ b, f a = .ok b) : ∃ b, (x >>= f) = .ok b := by
  obtain ⟨b, hb⟩ := hf
  exact ⟨b, bind_ok.2 ⟨a, hx, hb⟩⟩

theorem search256_written {s : State} (hw : FileWritten s) (e : Nat) : ∃ r, search256 s e = .ok r := by
  have table : ∀ base src, base + 768 ≤ s.fileLen →
      ∃ r, (do let t ← parse768 s base; return some (t, src) : Except Stop (Option (List Rgb × PalSrc))) = .ok r := by
    intro base src h
    obtain ⟨ts, ht⟩ := fileTriples_written hw (base := base) (k := Config.pal256Entries)
      (by simp only [Config.pal256Entries]; omega)
    exact bind_answers ht ⟨_, rfl⟩
  unfold search256
  obtain ⟨m, hm, -⟩ := markerAt_written hw (there := e < s.fileLen) (a := e) fun h => h
  refine bind_answers hm ?_
  split
  · next h => exact table _ _ (by omega)
  · split
    · next h => exact table _ _ (by simpa only [Config.pal256Bytes] using h)
    · obtain ⟨m2, hm2, hl⟩ := markerAt_written hw (there := s.fileLen > Config.pal256Bytes) (a := s.fileLen - 769)
        fun h => by omega
      refine bind_answers hm2 ?_
      split
      · next h =>
        have := hl h
        exact table _ _ (by simp only [Config.pal256Bytes] at *; omega)
      · split
        · next h => exact table _ _ (by simp only [Config.pal256Bytes] at *; omega)
        · exact ⟨_, rfl⟩

theorem findPalette_written {h : Header} {s : State} (hw : FileWritten s)
    (hb : versionGate h = true → s.boundary.isSome = true) : ∃ r, findPalette h s = .ok r := by
  unfold findPalette
  split
  · next hv =>
    obtain ⟨e, he⟩ := Option.isSome_iff_exists.1 (hb hv)
    obtain ⟨r, hr⟩ := search256_written hw e
    exact ⟨_, by rw [bind_ok]; exact ⟨e, boundaryOffset_ok.2 he, by rw [bind_ok]; exact ⟨r, hr, rfl⟩⟩⟩
  · exact ⟨_, rfl⟩

/-! ## Equal bytes read alike -/

/-- Bytes at or beyond FILE_LEN do not count. -/
theorem fileByte_alike {s t : State} (hl : t.fileLen = s.fileLen) (hf : ∀ a < s.fileLen, t.file.get a = s.file.get a) :
    fileByte t = fileByte s := by
  funext a
  unfold fileByte
  rw [hl]
  split
  · next h => rw [hf a h]
  · rfl

theorem fileHalf_alike {s t : State} (hb : fileByte t = fileByte s) : fileHalf t = fileHalf s := by
  funext a
  unfold fileHalf
  rw [hb]

theorem fileTriples_alike {s t : State} (hb : fileByte t = fileByte s) : fileTriples t = fileTriples s := by
  funext base k
  induction k generalizing base with
  | zero => rfl
  | succ k ih =>
    simp only [fileTriples, fileTriple]
    rw [hb, ih]

theorem readHeader_alike {s t : State} (hb : fileByte t = fileByte s) : readHeader t = readHeader s := by
  unfold readHeader
  rw [hb, fileHalf_alike hb, fileTriples_alike hb]

theorem fetchUnit_alike {s t : State} (hb : fileByte t = fileByte s) (hl : t.fileLen = s.fileLen) (hc : t.cursor = s.cursor) :
    fetchUnit t = fetchUnit s := by
  unfold fetchUnit
  rw [hb, hl, hc]

theorem search256_alike {s t : State} (hb : fileByte t = fileByte s) (hl : t.fileLen = s.fileLen) : search256 t = search256 s := by
  funext e
  unfold search256 parse768 markerAt
  rw [hb, hl, fileTriples_alike hb]

theorem findPalette_alike {s t : State} (h : Header) (hb : fileByte t = fileByte s) (hl : t.fileLen = s.fileLen)
    (he : t.boundary = s.boundary) : findPalette h t = findPalette h s := by
  unfold findPalette boundaryOffset
  rw [search256_alike hb hl, he]

/-! ## Instructions that go on -/

/-- A unit the decoder reads runs wherever there is a header. -/
theorem exec_unit_next {s : State} {h : Header} {bytes rest : List Byte} {i : Instr} (hh : s.hdr = some h)
    (hd : decodeUnit bytes = .ok (i, rest)) : ∃ t, exec i s = .next t := by
  cases bytes with
  | nil => simp [decodeUnit] at hd
  | cons b bs =>
    simp only [decodeUnit] at hd
    split at hd
    · cases bs with
      | nil => simp at hd
      | cons v bs' =>
        simp only [Except.ok.injEq, Prod.mk.injEq] at hd
        obtain ⟨rfl, -⟩ := hd
        simp only [exec, execRun, outcomeOf_next, runUnit, bind_ok, pure_ok, header_ok]
        exact ⟨_, h, hh, rfl⟩
    · split at hd <;> simp only [Except.ok.injEq, Prod.mk.injEq] at hd <;> obtain ⟨rfl, -⟩ := hd <;> exact ⟨_, rfl⟩

/-- A row of the format table runs at its selection, and in the real pass wherever there are dimensions. -/
theorem exec_format_next {s : State} {i : Instr} (hi : isFormatInstr i = true) (hd : s.phase = .decode → s.dims.isSome = true) :
    ∃ t, exec i s = .next t := by
  by_cases hp : s.phase = .decode
  · obtain ⟨d, hd⟩ := Option.isSome_iff_exists.1 (hd hp)
    cases i <;> simp only [isFormatInstr, Bool.false_eq_true] at hi <;>
      simp only [exec, execFmtRgb24, execFmtIndexedViaLuma, execFmtGray8, execFmtFallback, outcomeOf_next, formatRow_ok] <;>
      exact ⟨_, .inr ⟨hp, d, hd, rfl⟩⟩
  · cases i <;> simp only [isFormatInstr, Bool.false_eq_true] at hi <;>
      simp only [exec, execFmtRgb24, execFmtIndexedViaLuma, execFmtGray8, execFmtFallback, outcomeOf_next, formatRow_ok] <;>
      exact ⟨_, .inl ⟨hp, rfl⟩⟩

theorem formatRow_noFault (f : PixelFormat) (prepare : State → State) (px : State → Nat → Option Rgb) (s : State) :
    NoFault (formatRow f prepare px s) := by
  unfold formatRow assembleRow
  split
  · exact .bind (dimensions_noFault s) fun _ _ => .pure _
  · exact .pure _

/-- No instruction faults. -/
theorem exec_noFault (i : Instr) (s : State) (f : Fault) : exec i s ≠ .fault f := by
  cases i with
  | literalLow v => exact fun h => by cases h
  | literalHigh v => exact fun h => by cases h
  | run c v => exact NoFault.outcome (.bind (header_noFault s) fun _ _ => .pure _) f
  | fmtRgb24 p => exact NoFault.outcome (formatRow_noFault _ _ _ s) f
  | fmtIndexedViaLuma => exact NoFault.outcome (formatRow_noFault _ _ _ s) f
  | fmtGray8 => exact NoFault.outcome (formatRow_noFault _ _ _ s) f
  | fmtFallback p np bpp => exact NoFault.outcome (formatRow_noFault _ _ _ s) f
  | start ig =>
    intro h
    simp only [exec, execStart] at h
    split at h <;> cases h
  | reset st ig => exact fun h => by cases h
  | ctrlNop ig => exact fun h => by cases h

end Sys2Proof.Machine
end

