-- ==== Sys2Proof/Laws/Step.lean ====
section
/-! SUPPORT. What one step can do, said once: every step is one of the host's moves or one of the block's, and an invariant that
each of them keeps is kept by the step. -/

namespace Sys2Proof.Machine

/-- Every way the block can step from `s` to the next state. -/
inductive BlockStep (s : State) : State → Prop where
  | rest : isBusy s = false → BlockStep s s
  | init : isBusy s = true → s.phase = .init → BlockStep s (initDecode s)
  | tooShort : isBusy s = true → s.phase = .hdrParse → s.fileLen < 128 → BlockStep s (raiseError .invalidHeader s)
  | parsed (h : Header) : isBusy s = true → s.phase = .hdrParse → 128 ≤ s.fileLen → readHeader s = .ok h →
      BlockStep s (goPhase .validate { s with hdr := some h })
  | accepted (h : Header) : isBusy s = true → s.phase = .validate → s.hdr = some h → h.manufacturer = Config.manufacturerId →
      BlockStep s (goPhase .dims { s with status := { s.status with hdrValid := true } })
  | rejected (h : Header) : isBusy s = true → s.phase = .validate → s.hdr = some h → h.manufacturer ≠ Config.manufacturerId →
      BlockStep s (raiseError .notAPcxFile s)
  | sized (h : Header) : isBusy s = true → s.phase = .dims → s.hdr = some h → holdsHeader s.params h = true →
      BlockStep s (recordDims h s)
  | dryRun (h : Header) : isBusy s = true → s.phase = .palExtract → s.point = .enter → s.hdr = some h → versionGate h = true →
      BlockStep s (startPass s)
  | noDryRun (h : Header) : isBusy s = true → s.phase = .palExtract → s.point = .enter → s.hdr = some h →
      versionGate h = false → BlockStep s { s with point := .search }
  | searched (h : Header) (found : Option (List Rgb × PalSrc)) : isBusy s = true → s.phase = .palExtract → s.point = .search →
      s.hdr = some h → findPalette h s = .ok found → BlockStep s (recordPalette found s)
  | selected (h : Header) (t : State) : isBusy s = true → s.phase = .formatSelect → s.hdr = some h →
      exec (decodeKey (stateKey h s)) s = .next t → BlockStep s t
  | realPass : isBusy s = true → s.phase = .decode → s.point = .enter → BlockStep s (startPass s)
  | unit (h : Header) (d : Dims) (bytes rest : List Byte) (i : Instr) (t : State) : InPass h d s → InCall h d s →
      unitDue h s = true → fetchUnit s = .ok bytes → decodeUnit bytes = .ok (i, rest) → exec i s = .next t → BlockStep s t
  | truncated (h : Header) (d : Dims) (bytes : List Byte) (r : DecodeReject) : InPass h d s → InCall h d s →
      unitDue h s = true → fetchUnit s = .ok bytes → decodeUnit bytes = .error r → BlockStep s (truncateRun s)
  | callEnd (h : Header) (d : Dims) : InPass h d s → InCall h d s → unitDue h s = false → BlockStep s (endCall h d s)
  | rowPassed (h : Header) (d : Dims) : InPass h d s → s.y.toNat < d.rows.toNat → h.numPlanes.toNat ≤ s.p.toNat →
      storing s = false → BlockStep s (nextRow s)
  | rowBuilt (h : Header) (d : Dims) (t : State) : InPass h d s → s.y.toNat < d.rows.toNat → h.numPlanes.toNat ≤ s.p.toNat →
      storing s = true → exec (formatInstr h s) s = .next t → BlockStep s t
  | passEnd (h : Header) (d : Dims) : InPass h d s → d.rows.toNat ≤ s.y.toNat → BlockStep s (endPass s)
  | finished : isBusy s = true → s.phase = .finish → BlockStep s (finish s)

/-- Every way a host move can go from `s` to the next state. -/
inductive HostStep (s : State) : State → Prop where
  | noEffect : HostStep s s
  | start : isBusy s = false → HostStep s (beginDecode s)
  | reset : HostStep s (resetBlock s)
  | writeFile (a : Nat) (b : Byte) : isBusy s = false → s.params.holdsOffset a = true → HostStep s { s with file := s.file.set a b }
  | writeLen (w : Word) : isBusy s = false → s.params.holdsOffset w.toNat = true → HostStep s { s with fileLen := w.toNat }
  | read (v : HostData) : HostStep s { s with rdata := some v }

/-! ## Inversion -/

theorem operation_next {r : Except Stop State} {t : State} : (Plan.operation r).run = .next t ↔ r = .ok t := outcomeOf_next

theorem isBusy_iff {s : State} : isBusy s = true ↔ s.status.state = .busy := by simp [isBusy]

theorem isBusy_false {s : State} : isBusy s = false ↔ s.status.state ≠ .busy := by simp [isBusy]

theorem planPass_next {s t : State} (hb : isBusy s = true)
    (hw : (s.phase = .palExtract ∧ s.point = .scan) ∨ (s.phase = .decode ∧ s.point ≠ .enter))
    (h : (planPass s).run = .next t) : BlockStep s t := by
  unfold planPass at h
  cases hh : header s with
  | error e => simp [hh, operation_next] at h
  | ok hd =>
    cases hdm : dimensions s with
    | error e => simp [hh, hdm, operation_next] at h
    | ok d =>
      simp only [hh, hdm] at h
      have hp : InPass hd d s := ⟨hb, header_ok.1 hh, dimensions_ok.1 hdm, hw⟩
      unfold planScan at h
      split at h
      · next hy =>
        split at h
        · next hpl =>
          split at h
          · next hu =>
            unfold planUnit at h
            cases hf : fetchUnit s with
            | error e => simp [hf, operation_next] at h
            | ok bytes =>
              simp only [hf] at h
              cases hdec : decodeUnit bytes with
              | error r =>
                simp only [hdec, operation_next, Except.ok.injEq] at h
                subst h
                exact .truncated hd d bytes r hp ⟨hy, hpl⟩ hu hf hdec
              | ok ir =>
                obtain ⟨i, rest⟩ := ir
                simp only [hdec] at h
                exact .unit hd d bytes rest i t hp ⟨hy, hpl⟩ hu hf hdec h
          · next hu =>
            simp only [operation_next, Except.ok.injEq] at h
            subst h
            exact .callEnd hd d hp ⟨hy, hpl⟩ (by simpa using hu)
        · next hpl =>
          split at h
          · next hs => exact .rowBuilt hd d t hp hy (by omega) hs h
          · next hs =>
            simp only [operation_next, Except.ok.injEq] at h
            subst h
            exact .rowPassed hd d hp hy (by omega) (by simpa using hs)
      · next hy =>
        simp only [operation_next, Except.ok.injEq] at h
        subst h
        exact .passEnd hd d hp (by omega)

/-- What the block can do. -/
theorem planBlock_next {s t : State} (h : (planBlock s).run = .next t) : BlockStep s t := by
  unfold planBlock at h
  split at h
  case isFalse hb =>
    simp only [operation_next, Except.ok.injEq] at h
    subst h
    exact .rest (by simpa using hb)
  case isTrue hb =>
    unfold planPhase at h
    split at h
    case h_1 hph => simp only [operation_next, Except.ok.injEq] at h; subst h; exact .init hb hph
    case h_2 hph =>
      simp only [operation_next, hdrParse] at h
      split at h
      · next hl => rw [pure_ok] at h; subst h; exact .tooShort hb hph hl
      · next hl =>
        simp only [bind_ok, pure_ok] at h
        obtain ⟨hd, hr, rfl⟩ := h
        exact .parsed hd hb hph (Nat.le_of_not_lt hl) hr
    case h_3 hph =>
      simp only [operation_next, validate, bind_ok, header_ok] at h
      obtain ⟨hd, hh, h⟩ := h
      split at h
      · next hm => rw [pure_ok] at h; subst h; exact .accepted hd hb hph hh hm
      · next hm => rw [pure_ok] at h; subst h; exact .rejected hd hb hph hh hm
    case h_4 hph =>
      simp only [operation_next, computeDims, bind_ok, header_ok] at h
      obtain ⟨hd, hh, h⟩ := h
      split at h
      · next hc => rw [pure_ok] at h; subst h; exact .sized hd hb hph hh hc
      · cases h
    case h_5 hph =>
      split at h
      case h_1 hpt =>
        simp only [operation_next, enterPalExtract, bind_ok, header_ok] at h
        obtain ⟨hd, hh, h⟩ := h
        split at h
        · next hv => rw [pure_ok] at h; subst h; exact .dryRun hd hb hph hpt hh hv
        · next hv => rw [pure_ok] at h; subst h; exact .noDryRun hd hb hph hpt hh (by simpa using hv)
      case h_2 hpt => exact planPass_next hb (.inl ⟨hph, hpt⟩) h
      case h_3 hpt =>
        simp only [operation_next, searchPalette, bind_ok, header_ok, pure_ok] at h
        obtain ⟨hd, hh, found, hf, rfl⟩ := h
        exact .searched hd found hb hph hpt hh hf
    case h_6 hph =>
      unfold planFormat at h
      cases hh : header s with
      | error e => simp [hh, operation_next] at h
      | ok hd =>
        simp only [hh] at h
        exact .selected hd t hb hph (header_ok.1 hh) h
    case h_7 hph =>
      split at h
      case h_1 hpt => simp only [operation_next, Except.ok.injEq] at h; subst h; exact .realPass hb hph hpt
      case h_2 hpt => exact planPass_next hb (.inr ⟨hph, by simp [hpt]⟩) h
      case h_3 hpt => exact planPass_next hb (.inr ⟨hph, by simp [hpt]⟩) h
    case h_8 hph => simp only [operation_next, Except.ok.injEq] at h; subst h; exact .finished hb hph

/-- What a word written to CTRL can do (30_encoding.md R99). -/
theorem exec_ctrl {s t : State} (w : Word) (h : exec (decodeCtrl w) s = .next t) :
    t = s ∨ (isBusy s = false ∧ t = beginDecode s) ∨ t = resetBlock s := by
  unfold decodeCtrl at h
  split at h
  · simp only [exec, execStart] at h
    split at h
    · simp only [Host.Outcome.next.injEq] at h; exact .inl h.symm
    · next hb =>
      simp only [Host.Outcome.next.injEq] at h
      exact .inr (.inl ⟨isBusy_false.2 hb, h.symm⟩)
  · split at h
    · simp only [exec, execReset, Host.Outcome.next.injEq] at h; exact .inr (.inr h.symm)
    · simp only [exec, execCtrlNop, Host.Outcome.next.injEq] at h; exact .inl h.symm

theorem hostGets_ok {d : Option HostData} {s t : State} (h : hostGets d s = .ok t) :
    ∃ v, d = some v ∧ t = { s with rdata := some v } := by
  unfold hostGets at h
  cases d with
  | none => cases h
  | some v => simp only [pure_ok] at h; exact ⟨v, rfl, h.symm⟩

/-- What the host can do. -/
theorem planHost_next {op : HostOp} {s t : State} (h : (planHost op s).run = .next t) : HostStep s t := by
  cases op with
  | writeFile a b =>
    simp only [planHost, operation_next, hostWriteFile] at h
    split at h
    · cases h
    · next hb =>
      split at h
      · next ha => rw [pure_ok] at h; subst h; exact .writeFile a b (by simpa using hb) ha
      · cases h
  | writeReg index w =>
    simp only [planHost] at h
    split at h
    · rcases exec_ctrl w h with rfl | ⟨hb, rfl⟩ | rfl
      · exact .noEffect
      · exact .start hb
      · exact .reset
    · simp only [operation_next, hostWriteReg] at h
      split at h
      · split at h
        · cases h
        · next hb =>
          split at h
          · next hw => rw [pure_ok] at h; subst h; exact .writeLen w (by simpa using hb) hw
          · cases h
      · rw [pure_ok] at h; subst h; exact .noEffect
  | readReg index =>
    simp only [planHost, operation_next, hostReadReg] at h
    split at h
    · split at h
      · obtain ⟨v, -, rfl⟩ := hostGets_ok h; exact .read v
      · cases h
    · obtain ⟨v, -, rfl⟩ := hostGets_ok h; exact .read v
  | readPixel y x =>
    simp only [planHost, operation_next, hostReadPixel] at h
    split at h
    · cases h
    · obtain ⟨v, -, rfl⟩ := hostGets_ok h; exact .read v

/-! ## Turns -/

theorem takeTurn_state (s : State) : (takeTurn s).2 = { s with host := (takeTurn s).2.host } := by
  unfold takeTurn
  split <;> try rfl
  split <;> rfl

theorem takeTurn_nil {s : State} (h : s.host = []) : takeTurn s = (none, s) := by unfold takeTurn; rw [h]

/-- Every step is a host move or a block step, from the state whose turn was taken. -/
theorem step_cases {s t : State} (h : step s = .next t) :
    ∃ q, HostStep { s with host := q } t ∨ BlockStep { s with host := q } t := by
  unfold step plan at h
  have hs := takeTurn_state s
  generalize hT : takeTurn s = turn at h hs
  obtain ⟨o, s'⟩ := turn
  refine ⟨s'.host, ?_⟩
  dsimp only at hs
  rw [← hs]
  cases o with
  | none => exact .inr (planBlock_next h)
  | some op => exact .inl (planHost_next h)

/-- With no host move pending a step is the block's. -/
theorem step_block {s : State} (hq : s.host = []) : step s = (planBlock s).run := by
  unfold step plan; rw [takeTurn_nil hq]

/-- An invariant that the block's and the host's moves keep is kept by every step. -/
theorem step_invariant {Inv : State → Prop} (hq : ∀ s q, Inv s → Inv { s with host := q })
    (hb : ∀ s t, Inv s → BlockStep s t → Inv t) (hh : ∀ s t, Inv s → HostStep s t → Inv t)
    {s t : State} (hi : Inv s) (h : step s = .next t) : Inv t := by
  obtain ⟨q, h | h⟩ := step_cases h
  · exact hh _ _ (hq s q hi) h
  · exact hb _ _ (hq s q hi) h

end Sys2Proof.Machine
end

