-- ==== Sys2Proof/Tests/Slice0.lean ====
section
/-! SUPPORT. Tests: well-formedness, words written out from the spec's encodings, one step of each instruction against the
spec's own examples, and for every statement with hypotheses a state and operands that meet them. -/

namespace Sys2Proof.Tests

open Sys2Proof.Machine

/-! ## Well-formedness: each check refuses a term -/

theorem test_wf_literalLow_refuses_80 : (Instr.literalLow 0x80).wf = false := by decide
theorem test_wf_literalHigh_refuses_7F : (Instr.literalHigh 0x7F).wf = false := by decide
theorem test_wf_literalHigh_refuses_run_header : (Instr.literalHigh 0xC0).wf = false := by decide
theorem test_wf_fallback_refuses_rgb24_key : (Instr.fmtFallback true 3 8).wf = false := by decide
theorem test_wf_fallback_refuses_one_plane_key : (Instr.fmtFallback false 1 8).wf = false := by decide

/-- The boundary terms each check lets through. -/
theorem test_wf_accepts : (Instr.literalLow 0x7F).wf = true ∧ (Instr.literalHigh 0x80).wf = true ∧
    (Instr.literalHigh 0xBF).wf = true ∧ (Instr.fmtFallback true 4 8).wf = true ∧ (Instr.fmtFallback false 3 4).wf = true ∧
    (Instr.fmtFallback true 1 1).wf = true := by decide

/-! ## Decoding: words written out bit by bit (30_encoding.md R92, R94, R98, R99) -/

/-- `0vvvvvvv`: 0 0101000 is the literal 40 of R171. -/
theorem test_decode_literalLow : decode (.unit [0b0_0101000]) = .ok (.literalLow 0x28) := by decide
/-- `10vvvvvv`: 10 111111, the largest literal of R171. -/
theorem test_decode_literalHigh : decode (.unit [0b10_111111]) = .ok (.literalHigh 0xBF) := by decide
/-- `11cccccc vvvvvvvv`: count 3, value 0x7F (R172). -/
theorem test_decode_run : decode (.unit [0b11_000011, 0b01111111]) = .ok (.run 3 0x7F) := by decide
/-- `p 00000011 00001000`. -/
theorem test_decode_rgb24 : decode (.key 0b1_00000011_00001000) = .ok (.fmtRgb24 true) := by decide
/-- `1 00000001 00001000`. -/
theorem test_decode_indexed : decode (.key 0b1_00000001_00001000) = .ok .fmtIndexedViaLuma := by decide
/-- `0 00000001 00001000`. -/
theorem test_decode_gray8 : decode (.key 0b0_00000001_00001000) = .ok .fmtGray8 := by decide
/-- `p nnnnnnnn bbbbbbbb`: four planes of one bit. -/
theorem test_decode_fallback : decode (.key 0b0_00000100_00000001) = .ok (.fmtFallback false 4 1) := by decide
/-- 30 ignored bits, then 01. -/
theorem test_decode_start : decode (.ctrl 0b000000000000000000000000000011_01) = .ok (.start 3) := by decide
/-- 30 ignored bits, then 1s: RESET wins over START (R25). -/
theorem test_decode_reset : decode (.ctrl 0b000000000000000000000000000000_11) = .ok (.reset true 0) := by decide
/-- 30 ignored bits, then 00. -/
theorem test_decode_nop : decode (.ctrl 0b100000000000000000000000000000_00) = .ok (.ctrlNop 0x20000000) := by decide

/-- What is no instruction is refused by name (R176). -/
theorem test_decode_refuses : decode (.unit []) = .error .noByte ∧ decode (.unit [0xC5]) = .error .truncatedRun ∧
    decode (.unit [0x28, 0x29]) = .error .trailingBytes ∧ decode (.unit [0xC0, 0x28, 0x29]) = .error .trailingBytes := by decide

/-- Each row's match bits, numbered as the table numbers them, decode to the row. -/
theorem test_decodeTableWord :
    decodeTableWord 8 0x00 = some (.literalLow 0) ∧ decodeTableWord 8 0x80 = some (.literalHigh 0x80) ∧
    decodeTableWord 8 0xC0 = some (.run 0 0) ∧ decodeTableWord 16 0x7FC3 = some (.run 3 0x7F) ∧
    decodeTableWord 24 0x00308 = some (.fmtRgb24 false) ∧ decodeTableWord 24 0x10108 = some .fmtIndexedViaLuma ∧
    decodeTableWord 24 0x00108 = some .fmtGray8 ∧ decodeTableWord 24 0x00000 = some (.fmtFallback false 0 0) ∧
    decodeTableWord 32 0x1 = some (.start 0) ∧ decodeTableWord 32 0x2 = some (.reset false 0) ∧
    decodeTableWord 32 0x0 = some (.ctrlNop 0) := by decide

/-! ## Small states -/

/-- A version-5 header of `np` planes of `bpp` bits and `b` bytes a line. -/
def hdrOf (np bpp : Byte) (b : Half) : Header :=
  { Header.zero with
    manufacturer := 10, version := 5, bpp := bpp, numPlanes := np, bytesPerLine := b, hpal := List.replicate 16 ⟨1, 2, 3⟩ }

/-- A file of `n` zero bytes from offset `a` on. -/
def zeros : (a n : Nat) → Memory Byte
  | _, 0 => []
  | a, n + 1 => (a, 0) :: zeros (a + 1) n

theorem zeros_get {a n x : Nat} (h1 : a ≤ x) (h2 : x < a + n) : (zeros a n).get x = some 0 := by
  induction n generalizing a with
  | zero => omega
  | succ n ih =>
    simp only [zeros, Memory.get]
    split
    · rfl
    · exact ih (by omega) (by omega)

/-- The block in the middle of a pass, at CURSOR = 128 of a file that ends with `bytes` after 128 zero bytes. -/
def scan (ph : Phase) (np bpp : Byte) (b : Half) (bytes : List Byte) : State :=
  { State.reset with
    status := { Status.reset with state := .busy, hdrValid := true }
    phase := ph, point := .scan
    fileLen := 128 + bytes.length
    file := placeBytes 128 bytes (zeros 0 128)
    hdr := some (hdrOf np bpp b)
    dims := some ⟨2, 1, 2, 1⟩ }

/-- The block about to start an operation. -/
def at_ (ph : Phase) (pt : Point) : State := { scan ph 1 8 4 [] with point := pt }

/-- The block at the end of a scanline, the planes' buffers holding the bytes of `bufs`. -/
def rowState (f : PixelFormat) (np : Byte) (bufs : List (List Byte)) : State :=
  { scan .decode np 8 4 [] with
    status := { (scan .decode np 8 4 []).status with format := f }
    p := np
    line := (bufs.zipIdx.flatMap fun (bs, q) => bs.zipIdx.map fun (v, i) => (lineKey q i, v))
    lineLen := bufs.zipIdx.map fun (bs, q) => (q, BitVec.ofNat 16 bs.length) }

/-- A pixel after a step. -/
def pixAfter (s : State) (y x : Nat) : Option (Option Rgb) := (nextState (step s)).bind fun t => t.pix.get (pixKey y x)

/-! ## One step of each instruction, against the spec's examples -/

/-- R171: `b = 0x28`: appends 40, CURSOR advances by 1. -/
theorem test_literalLow : (nextState (step (scan .decode 1 8 4 [0x28]))).map (fun t => (t.line, t.n, t.cursor)) =
    some ([(lineKey 0 0, 40)], 1, 129) := by decide

/-- R171: 0xBF is the largest literal; a dry run stores nothing (R178). -/
theorem test_literalHigh : (nextState (step (scan .palExtract 1 8 4 [0xBF]))).map (fun t => (t.line, t.n, t.cursor)) =
    some ([], 1, 129) := by decide

/-- R170: `B = 3`, 0xC3 0x7F: N = 3, LINE = [127, 127, 127], CURSOR = 130. -/
theorem test_run : (nextState (step (scan .decode 1 8 3 [0xC3, 0x7F]))).map (fun t => (t.line, t.n, t.cursor)) =
    some ([(lineKey 0 0, 127), (lineKey 0 1, 127), (lineKey 0 2, 127)], 3, 130) := by decide

/-- R173, R174: 0xC6 0x09 with `B = 4` appends four; 0xC0 0x55 appends none; CURSOR moves by 2 in both. -/
theorem test_run_clips_and_zero :
    (nextState (step (scan .decode 1 8 4 [0xC6, 0x09]))).map (fun t => (t.n, t.cursor)) = some (4, 130) ∧
    (nextState (step (scan .decode 1 8 2 [0xC0, 0x55]))).map (fun t => (t.line, t.n, t.cursor)) = some ([], 0, 130) := by decide

/-- R192: LINE[0] = [1, 2], LINE[1] = [3, 4], LINE[2] = [5, 6]: [(1,3,5), (2,4,6)]. -/
theorem test_rgb24 : pixAfter (rowState .rgb24 3 [[1, 2], [3, 4], [5, 6]]) 0 0 = some (some ⟨1, 3, 5⟩) ∧
    pixAfter (rowState .rgb24 3 [[1, 2], [3, 4], [5, 6]]) 0 1 = some (some ⟨2, 4, 6⟩) := by decide

/-- R192: one short plane takes the whole pixel away. -/
theorem test_rgb24_absent : pixAfter (rowState .rgb24 3 [[1, 2], [3, 4], [5]]) 0 1 = some none := by decide

/-- R191: `(255, 0, 0)` has the luma 76; R199: `(0, 0, 250)` has 29, and 28 with LUMA_TIE = half_even (93 U6). -/
theorem test_indexed_luma :
    (nextState (exec .fmtIndexedViaLuma { at_ .formatSelect .enter with pal := [⟨255, 0, 0⟩, ⟨0, 0, 250⟩] })).map State.luma =
      some [76, 29] ∧
    (nextState (exec .fmtIndexedViaLuma { at_ .formatSelect .enter with
      params := { Config.Params.standard with lumaTie := .halfEven }, pal := [⟨0, 0, 250⟩] })).map State.luma =
      some [28] := by decide

/-- R193: an index into LUMA gives a grey pixel. -/
theorem test_indexed_row : pixAfter { rowState .indexedViaLuma 1 [[1]] with luma := [29, 76] } 0 0 = some (some ⟨76, 76, 76⟩) := by
  decide

/-- R194: `[10, 20]`: `(10,10,10), (20,20,20)`. -/
theorem test_gray8 : pixAfter (rowState .gray8 1 [[10, 20]]) 0 0 = some (some ⟨10, 10, 10⟩) ∧
    pixAfter (rowState .gray8 1 [[10, 20]]) 0 1 = some (some ⟨20, 20, 20⟩) := by decide

/-- R195: `NP = 4`, LINE[0] = [0xAA, 0x55]: `(170,170,170), (85,85,85)`. -/
theorem test_fallback : pixAfter (rowState .fallback 4 [[0xAA, 0x55], [1], [2], [3]]) 0 0 = some (some ⟨170, 170, 170⟩) ∧
    pixAfter (rowState .fallback 4 [[0xAA, 0x55], [1], [2], [3]]) 0 1 = some (some ⟨85, 85, 85⟩) := by decide

/-- R195: with no plane every pixel is absent. -/
theorem test_fallback_no_plane : pixAfter (rowState .fallback 0 []) 0 0 = some none := by decide

/-- R120: START begins a decode outside BUSY and is ignored in BUSY. -/
theorem test_start : (nextState (exec (.start 0) State.reset)).map (fun t => (t.status.state, t.phase)) = some (.busy, .init) ∧
    nextState (exec (.start 0) (at_ .dims .enter)) = some (at_ .dims .enter) := by decide

/-- R121: in state ERROR with ERR = 2, RESET gives STATE = IDLE, ERR = 0; FILE stays. -/
theorem test_reset :
    (nextState (exec (.reset false 0)
      { State.reset with status := { Status.reset with state := .error, err := .notAPcxFile }, file := [(3, 4)] })).map
        (fun t => (t.status.word, t.file)) = some (0, [(3, 4)]) := by decide

/-- R99: bits 1:0 = 00 do nothing. -/
theorem test_nop : nextState (exec (.ctrlNop 0) (at_ .dims .enter)) = some (at_ .dims .enter) := by decide

/-! ## Operations of the sequence -/

/-- R141: START with FILE_LEN = 0 ends in ERROR with ERR = InvalidHeader. -/
theorem test_short_file : (nextState (step { at_ .hdrParse .enter with fileLen := 0, file := [] })).map
    (fun t => (t.status.state, t.status.err)) = some (.error, .invalidHeader) := by decide

/-- R143: a manufacturer byte of 11 is NotAPCXFile. -/
theorem test_not_pcx : (nextState (step { at_ .validate .enter with hdr := some { hdrOf 1 8 4 with manufacturer := 11 } })).map
    (fun t => (t.status.state, t.status.err, t.hdr)) = some (.error, .notAPcxFile, none) := by decide

/-- R144: xmin = 1, xmax = 0: width 0, no column, DIM_BAD; ymin = 65535, ymax = 0: height -65534. -/
theorem test_dims_below_one :
    dimsOf { hdrOf 1 8 4 with xmin := 1, ymin := 65535 } = ⟨0, BitVec.ofInt 18 (-65534), 0, 0⟩ := by decide

/-- R144: xmin = 0, xmax = 65535: 65536 columns, not 0. -/
theorem test_dims_largest : (dimsOf { hdrOf 1 8 4 with xmax := 65535 }).cols = 65536 := by decide

/-- R176: `B = 4`, a lone 0xC5 at the end of the file: CURSOR = L and nothing is appended. -/
theorem test_truncated_run : (nextState (step (scan .decode 1 8 4 [0xC5]))).map (fun t => (t.line, t.n, t.cursor)) =
    some ([], 0, 129) := by decide

/-- R127: vector S1 ends with STATUS = 0x0A52. -/
theorem test_status_word : Status.word
    { Status.reset with state := .done, hdrValid := true, imgValid := true, boundaryValid := true, format := .gray8 } = 0x0A52 := by
  decide

/-- Every row placed by `withFetchWord` after reset is what the next step runs. -/
theorem test_withFetchWord :
    (nextState (step (State.reset.withFetchWord 8 0x28))).map State.line = some [(lineKey 0 0, 0x28)] ∧
    (nextState (step (State.reset.withFetchWord 8 0x80))).map State.line = some [(lineKey 0 0, 0x80)] ∧
    (nextState (step (State.reset.withFetchWord 16 0x7FC1))).map State.line = some [(lineKey 0 0, 0x7F)] ∧
    (nextState (step (State.reset.withFetchWord 24 0x00308))).map (fun t => t.status.format) = some .rgb24 ∧
    (nextState (step (State.reset.withFetchWord 24 0x10108))).map (fun t => t.status.format) = some .indexedViaLuma ∧
    (nextState (step (State.reset.withFetchWord 24 0x00108))).map (fun t => t.status.format) = some .gray8 ∧
    (nextState (step (State.reset.withFetchWord 24 0x00000))).map (fun t => t.status.format) = some .fallback ∧
    (nextState (step (State.reset.withFetchWord 32 1))).map (fun t => t.status.state) = some .busy ∧
    (nextState (step (State.reset.withFetchWord 32 2))).map (fun t => t.status.state) = some .idle ∧
    nextState (step (State.reset.withFetchWord 32 0)) = some State.reset := by decide

/-! ## Witnesses: for every statement with hypotheses, states and operands that meet them -/

theorem inPass_scan_dry : InPass (hdrOf 1 8 4) ⟨2, 1, 2, 1⟩ (scan .palExtract 1 8 4 [0x28]) := ⟨rfl, rfl, rfl, .inl ⟨rfl, rfl⟩⟩
theorem inPass_scan_real : InPass (hdrOf 1 8 4) ⟨2, 1, 2, 1⟩ (scan .decode 1 8 4 [0xC5]) := ⟨rfl, rfl, rfl, .inr ⟨rfl, by decide⟩⟩

/-- Clauses at the ends of the index ranges (ResetGivesOnlyTheNamedValues). -/
theorem witness_ResetGivesOnlyTheNamedValues : registerWord State.reset 0 = some 0 ∧ registerWord State.reset 3 = some 128 ∧
    registerWord State.reset 4 = none ∧ registerWord State.reset 9 = some 0 ∧ registerWord State.reset 10 = none ∧
    registerWord State.reset 511 = none ∧ pixelPort State.reset 0 0 = none := by decide

/-- Both rows at both ends of their bytes; the last byte of the budget and of the file; both passes. -/
theorem witness_LiteralAppendsItsByte :
    (∀ s ∈ [{ scan .decode 1 8 4 [0x00] with n := 3 }, scan .palExtract 1 8 4 [0x00]],
      s.hdr = some (hdrOf 1 8 4) ∧ s.n.toNat < (hdrOf 1 8 4).bytesPerLine.toNat ∧ s.cursor < s.fileLen) ∧
    (∀ v ∈ [(0x00 : Byte), 0x7F], (Instr.literalLow v).wf = true) ∧
    (∀ v ∈ [(0x80 : Byte), 0xBF], (Instr.literalHigh v).wf = true) ∧
    storing (scan .decode 1 8 4 [0x00]) = true ∧ storing (scan .palExtract 1 8 4 [0x00]) = false := by decide

/-- A full and an empty budget, both passes. -/
theorem witness_RunAppendsClippedCopies :
    ∀ s ∈ [scan .decode 1 8 4 [0xFF, 1], { scan .decode 1 8 4 [0xFF, 1] with n := 4 }, scan .palExtract 1 8 4 [0xC0, 1]],
      s.hdr = some (hdrOf 1 8 4) ∧ s.n.toNat ≤ (hdrOf 1 8 4).bytesPerLine.toNat ∧ s.cursor + 1 < s.fileLen := by
  decide

theorem witness_UnitsChangeOnlyTheirCopies :
    (∃ t, isUnitInstr (.literalLow 1) = true ∧ exec (.literalLow 1) (scan .decode 1 8 4 [1]) = .next t) ∧
    (∃ t, isUnitInstr (.literalHigh 128) = true ∧ exec (.literalHigh 128) (scan .palExtract 1 8 4 [128]) = .next t ∧
      storing (scan .palExtract 1 8 4 [128]) = false) ∧
    (∃ t, isUnitInstr (.run 63 1) = true ∧ exec (.run 63 1) (scan .decode 1 8 4 [0xFF, 1]) = .next t) :=
  ⟨⟨_, rfl, rfl⟩, ⟨_, rfl, rfl, rfl⟩, ⟨_, rfl, rfl⟩⟩

theorem witness_DryRunMovesAsTheRealPass : isUnitInstr (.run 3 1) = true ∧ isUnitInstr (.literalLow 3) = true ∧
    (scan .decode 1 8 4 [0xC3, 1]).hdr = some (hdrOf 1 8 4) := by decide

/-- The smallest and the largest run header as the last byte, in the real pass and in the dry run. -/
theorem witness_TruncatedRunEndsTheStream :
    (∀ b ∈ [(0xC0 : Byte), 0xFF], ∀ ph ∈ [Phase.decode, .palExtract],
      (scan ph 1 8 4 [b]).host = [] ∧ InCall (hdrOf 1 8 4) ⟨2, 1, 2, 1⟩ (scan ph 1 8 4 [b]) ∧
      (scan ph 1 8 4 [b]).n.toNat < (hdrOf 1 8 4).bytesPerLine.toNat ∧
      (scan ph 1 8 4 [b]).cursor + 1 = (scan ph 1 8 4 [b]).fileLen ∧
      (scan ph 1 8 4 [b]).file.get (scan ph 1 8 4 [b]).cursor = some b ∧ 192 ≤ b.toNat) ∧
    InPass (hdrOf 1 8 4) ⟨2, 1, 2, 1⟩ (scan .decode 1 8 4 [0xC0]) ∧
    InPass (hdrOf 1 8 4) ⟨2, 1, 2, 1⟩ (scan .palExtract 1 8 4 [0xC0]) := by
  refine ⟨?_, ⟨rfl, rfl, rfl, .inr ⟨rfl, by decide⟩⟩, ⟨rfl, rfl, rfl, .inl ⟨rfl, rfl⟩⟩⟩
  unfold InCall
  decide

/-- A full call and a file at its end, in both passes. -/
theorem witness_CallEndsTrimmed :
    (∀ s ∈ [{ scan .decode 1 8 4 [1] with n := 4 }, scan .decode 1 8 4 [], { scan .palExtract 1 8 4 [1] with n := 4 }],
      s.host = [] ∧ InCall (hdrOf 1 8 4) ⟨2, 1, 2, 1⟩ s ∧
      (s.n.toNat = (hdrOf 1 8 4).bytesPerLine.toNat ∨ s.cursor = s.fileLen)) ∧
    InPass (hdrOf 1 8 4) ⟨2, 1, 2, 1⟩ { scan .decode 1 8 4 [1] with n := 4 } ∧
    InPass (hdrOf 1 8 4) ⟨2, 1, 2, 1⟩ (scan .decode 1 8 4 []) ∧
    InPass (hdrOf 1 8 4) ⟨2, 1, 2, 1⟩ { scan .palExtract 1 8 4 [1] with n := 4 } := by
  refine ⟨?_, ⟨rfl, rfl, rfl, .inr ⟨rfl, by decide⟩⟩, ⟨rfl, rfl, rfl, .inr ⟨rfl, by decide⟩⟩, ⟨rfl, rfl, rfl, .inl ⟨rfl, rfl⟩⟩⟩
  unfold InCall
  decide

theorem witness_CursorOnlyAdvances : ∃ t, (scan .palExtract 1 8 4 [0x28]).host = [] ∧
    InPass (hdrOf 1 8 4) ⟨2, 1, 2, 1⟩ (scan .palExtract 1 8 4 [0x28]) ∧
    (scan .palExtract 1 8 4 [0x28]).cursor ≤ (scan .palExtract 1 8 4 [0x28]).fileLen ∧
    step (scan .palExtract 1 8 4 [0x28]) = .next t := ⟨_, rfl, inPass_scan_dry, by decide, rfl⟩

theorem witness_DecodeInvertsEncode : (Instr.literalLow 0).wf = true ∧ (Instr.literalLow 0x7F).wf = true ∧
    (Instr.literalHigh 0x80).wf = true ∧ (Instr.literalHigh 0xBF).wf = true ∧ (Instr.run 63 0xFF).wf = true ∧
    (Instr.fmtRgb24 true).wf = true ∧ Instr.fmtIndexedViaLuma.wf = true ∧ Instr.fmtGray8.wf = true ∧
    (Instr.fmtFallback true 255 255).wf = true ∧ (Instr.start 0).wf = true ∧ (Instr.reset true 0).wf = true ∧
    (Instr.ctrlNop 0).wf = true := by decide

theorem witness_EncodeInvertsDecode : decode (.unit [0xFF, 0xFF]) = .ok (.run 63 0xFF) ∧
    decode (.key 0x1FFFF) = .ok (.fmtFallback true 255 255) ∧ decode (.ctrl 0xFFFFFFFF) = .ok (.reset true 0x3FFFFFFF) := by decide

theorem witness_FirstByteTellsTheUnit : 192 ≤ (0xC0 : Byte).toNat ∧ 192 ≤ (0xFF : Byte).toNat ∧ (0xBF : Byte).toNat < 192 ∧
    (0x00 : Byte).toNat < 192 := by decide

/-- Each of the four states START is written in. -/
theorem witness_StartBeginsADecode :
    (∀ st ∈ [SeqState.idle, .done, .error], { Status.reset with state := st }.state ≠ .busy) ∧
    (at_ .dims .enter).status.state = .busy := by decide

theorem witness_NoCommandChangesNothing : (0 : Word).toNat % 4 = 0 ∧ (0xFFFFFFFC : Word).toNat % 4 = 0 := by decide

/-- The four values of the two command bits. -/
theorem witness_CtrlWriteObeysItsTwoBits :
    (∀ w ∈ [(0 : Word), 1, 2, 3], ({ State.reset with host := [⟨.after 0, .writeReg 0 w⟩] } : State).host =
      ⟨.after 0, .writeReg 0 w⟩ :: []) ∧
    2 ≤ (2 : Word).toNat % 4 ∧ 2 ≤ (3 : Word).toNat % 4 ∧ (1 : Word).toNat % 4 = 1 ∧ (0 : Word).toNat % 4 = 0 :=
  ⟨fun _ _ => rfl, by decide, by decide, by decide, by decide⟩

/-- The selection; a step of the real pass and the last one; a row of it. -/
theorem witness_FormatSelectedOnce :
    ((at_ .formatSelect .enter).host = [] ∧ isBusy (at_ .formatSelect .enter) = true ∧
      (at_ .formatSelect .enter).phase = .formatSelect ∧ (at_ .formatSelect .enter).hdr = some (hdrOf 1 8 4)) ∧
    (∀ s ∈ [at_ .finish .enter, rowState .gray8 1 [[10]], at_ .palExtract .enter],
      s.host = [] ∧ isBusy s = true ∧ s.phase ≠ .init ∧ s.phase ≠ .formatSelect ∧ (nextState (step s)).isSome = true) ∧
    (let s := rowState .gray8 1 [[10]];
      s.host = [] ∧ isBusy s = true ∧ s.phase = .decode ∧ s.point ≠ .enter ∧ s.hdr = some (hdrOf 1 8 4) ∧
      s.dims = some ⟨2, 1, 2, 1⟩ ∧ s.y.toNat < (1 : BitVec 17).toNat ∧ (hdrOf 1 8 4).numPlanes.toNat ≤ s.p.toNat) := by decide

theorem witness_FormatRowsComplete : (∀ i ∈ [Instr.fmtRgb24 true, .fmtIndexedViaLuma, .fmtGray8, .fmtFallback false 4 1],
    isFormatInstr i = true) ∧ (at_ .formatSelect .enter).phase ≠ .decode := by decide

/-- A palette of 256 entries under each LUMA_TIE; `(0, 0, 250)` is an exact half (R199). -/
theorem witness_LumaTableBuilt : ∀ tie ∈ [Config.LumaTie.halfUp, .halfEven],
    let s := { at_ .formatSelect .enter with
      params := { Config.Params.standard with lumaTie := tie }, pal := List.replicate 256 ⟨0, 0, 250⟩ }
    s.phase ≠ .decode ∧ s.pal.length = 256 ∧ s.params.lumaTie = tie ∧ s.pal[255]? = some ⟨0, 0, 250⟩ ∧
    (299 * 0 + 587 * 0 + 114 * 250) % 1000 = 500 :=
  fun _ _ => ⟨by simp [at_, scan], List.length_replicate, rfl, rfl, rfl⟩

/-- A grey entry, an entry off the halves; `(0, 0, 250)` is on one (R199). -/
theorem witness_LumaNeedsNoClamp : (⟨255, 255, 255⟩ : Rgb) = ⟨255, 255, 255⟩ ∧ lumaSum ⟨255, 0, 0⟩ % 1000 ≠ 500 ∧
    lumaSum ⟨0, 0, 250⟩ % 1000 = 500 := by decide

/-- A present and an absent pixel. -/
theorem witness_Rgb24RowFromThreePlanes :
    let s := rowState .rgb24 3 [[1, 2], [3, 4], [5]]
    s.phase = .decode ∧ s.dims = some ⟨2, 1, 2, 1⟩ ∧ s.lineLen.get 0 = some 2 ∧ s.lineLen.get 1 = some 2 ∧
    s.lineLen.get 2 = some 1 ∧ s.line.get (lineKey 0 0) = some 1 ∧ s.line.get (lineKey 1 0) = some 3 ∧
    s.line.get (lineKey 2 0) = some 5 := by decide

theorem witness_IndexedRowThroughLuma :
    let s := { rowState .indexedViaLuma 1 [[0xFF]] with luma := List.replicate 256 7 }
    s.phase = .decode ∧ s.dims = some ⟨2, 1, 2, 1⟩ ∧ s.lineLen.get 0 = some 1 ∧ s.luma.length = 256 ∧
    s.line.get (lineKey 0 0) = some 0xFF := ⟨rfl, rfl, rfl, List.length_replicate, rfl⟩

theorem witness_Gray8RowFromPlaneZero :
    let s := rowState .gray8 1 [[10]]
    s.phase = .decode ∧ s.dims = some ⟨2, 1, 2, 1⟩ ∧ s.lineLen.get 0 = some 1 ∧ s.line.get (lineKey 0 0) = some 10 := by decide

/-- A plane, and none. -/
theorem witness_FallbackRowIsBestEffort :
    let s := rowState .fallback 1 [[10]]
    s.phase = .decode ∧ s.dims = some ⟨2, 1, 2, 1⟩ ∧ s.lineLen.get 0 = some 1 ∧ s.line.get (lineKey 0 0) = some 10 ∧
    1 ≤ (1 : Byte).toNat ∧ (0 : Byte).toNat = 0 := by decide

theorem witness_RowsChangeOnlyTheirPixels : ∃ t,
    isFormatInstr .fmtGray8 = true ∧ (rowState .gray8 1 [[10]]).phase = .decode ∧
    exec .fmtGray8 (rowState .gray8 1 [[10]]) = .next t ∧ (rowState .gray8 1 [[10]]).dims = some ⟨2, 1, 2, 1⟩ ∧
    (∀ p, Instr.fmtGray8 ≠ .fmtRgb24 p) ∧ t.pix.get (pixKey 0 0) = some (some ⟨10, 10, 10⟩) :=
  ⟨nextRow { rowState .gray8 1 [[10]] with pix := putRow 0 (pixelGrey (rowState .gray8 1 [[10]])) 2 [] },
    rfl, rfl, rfl, rfl, by decide, by decide⟩

theorem witness_InitClearsEveryResult : (at_ .init .enter).host = [] ∧ isBusy (at_ .init .enter) = true ∧
    (at_ .init .enter).phase = .init := by decide

/-- Two pasts of one file. -/
theorem witness_InitForgetsThePast : ∃ s t,
    let a := at_ .init .enter
    let b := { a with pal := [⟨1, 2, 3⟩], palCount := 256, cursor := 77, n := 5 }
    a.host = [] ∧ b.host = [] ∧ isBusy a = true ∧ isBusy b = true ∧ a.phase = .init ∧ b.phase = .init ∧
    a.params = b.params ∧ a.file = b.file ∧ a.fileLen = b.fileLen ∧ step a = .next s ∧ step b = .next t :=
  ⟨_, _, rfl, rfl, rfl, rfl, rfl, rfl, rfl, rfl, rfl, rfl, rfl⟩

/-- The shortest and the longest file that is too short; the shortest that is not. -/
theorem witness_ShortFileIsInvalidHeader :
    (∀ s ∈ [{ at_ .hdrParse .enter with fileLen := 0 }, { at_ .hdrParse .enter with fileLen := 127 }],
      s.host = [] ∧ isBusy s = true ∧ s.phase = .hdrParse ∧ s.fileLen < 128) ∧
    ∃ t, (at_ .hdrParse .enter).host = [] ∧ isBusy (at_ .hdrParse .enter) = true ∧ (at_ .hdrParse .enter).phase = .hdrParse ∧
      128 ≤ (at_ .hdrParse .enter).fileLen ∧ step (at_ .hdrParse .enter) = .next t :=
  ⟨by decide, _, rfl, rfl, rfl, by decide, rfl⟩

/-- A file of exactly 128 bytes. -/
theorem witness_HeaderFieldsExtracted : (at_ .hdrParse .enter).host = [] ∧ isBusy (at_ .hdrParse .enter) = true ∧
    (at_ .hdrParse .enter).phase = .hdrParse ∧ 128 ≤ (at_ .hdrParse .enter).fileLen ∧
    (∀ a, a < 74 → a ≠ 64 → (at_ .hdrParse .enter).file.get a = some ((fun _ => 0 : Nat → Byte) a)) :=
  ⟨rfl, rfl, rfl, by decide, fun a ha _ => zeros_get (Nat.zero_le a) (show a < 0 + 128 by omega)⟩

/-- The manufacturer byte of a PCX file, and another. -/
theorem witness_ManufacturerByteDecides : ∀ m ∈ [(10 : Byte), 11],
    let s := { at_ .validate .enter with hdr := some { hdrOf 1 8 4 with manufacturer := m } }
    s.host = [] ∧ isBusy s = true ∧ s.phase = .validate ∧ s.hdr = some { hdrOf 1 8 4 with manufacturer := m } := by decide

/-- Each of the two errors. -/
theorem witness_FatalErrorWithdrawsResults :
    (∃ t, let s := { at_ .hdrParse .enter with fileLen := 0 }
      s.host = [] ∧ isBusy s = true ∧ step s = .next t ∧ t.status.state = .error) ∧
    (∃ t, let s := { at_ .validate .enter with hdr := some { hdrOf 1 8 4 with manufacturer := 11 } }
      s.host = [] ∧ isBusy s = true ∧ step s = .next t ∧ t.status.state = .error) :=
  ⟨⟨_, rfl, rfl, rfl, rfl⟩, ⟨_, rfl, rfl, rfl, rfl⟩⟩

/-- The block at DIMS with other capacities: `line` bytes and `pix` pixels. -/
def withCapacities (line pix : Nat) : State :=
  { at_ .dims .enter with params := { Config.Params.standard with lineCapacity := line, pixCapacity := pix } }

/-- R6's capacities, and capacities that just hold the header's one plane of 4 bytes and one pixel. -/
theorem witness_DimensionsAreExact :
    (∀ s ∈ [at_ .dims .enter, withCapacities 4 1], s.host = [] ∧ isBusy s = true ∧ s.phase = .dims ∧
      s.hdr = some (hdrOf 1 8 4)) ∧
    (at_ .dims .enter).params = Config.Params.standard ∧
    (hdrOf 1 8 4).numPlanes.toNat * (hdrOf 1 8 4).bytesPerLine.toNat ≤ (withCapacities 4 1).params.lineCapacity ∧
    (dimsOf (hdrOf 1 8 4)).rows.toNat * (dimsOf (hdrOf 1 8 4)).cols.toNat ≤ (withCapacities 4 1).params.pixCapacity := by decide

/-- One byte, and one pixel, too few. -/
theorem witness_NoStepFaults :
    (∀ s ∈ [withCapacities 3 1, withCapacities 4 0], s.host = [] ∧ isBusy s = true ∧ s.phase = .dims ∧
      s.hdr = some (hdrOf 1 8 4)) ∧
    (withCapacities 3 1).params.lineCapacity < (hdrOf 1 8 4).numPlanes.toNat * (hdrOf 1 8 4).bytesPerLine.toNat ∧
    (withCapacities 4 0).params.pixCapacity <
      (dimsOf (hdrOf 1 8 4)).rows.toNat * (dimsOf (hdrOf 1 8 4)).cols.toNat := by decide

/-- 93 U14, D30: a header beyond a finite capacity is refused; the field maxima fit R6's. -/
theorem test_capacities : refusalOf (step (withCapacities 3 1)) = some .headerExceedsCapacity ∧
    (nextState (step { at_ .dims .enter with hdr := some { hdrOf 255 8 65535 with xmax := 65535, ymax := 65535 } })).isSome =
      true := by decide

/-- The versions on both sides of the gate, a finished dry run, and a real pass about to begin. -/
theorem witness_DryRunOnlyPastTheGate :
    (∀ v ∈ [(4 : Byte), 5], let s := { at_ .palExtract .enter with hdr := some { hdrOf 1 8 4 with version := v } }
      s.host = [] ∧ isBusy s = true ∧ s.phase = .palExtract ∧ s.point = .enter ∧
      s.hdr = some { hdrOf 1 8 4 with version := v }) ∧
    (let s := { at_ .palExtract .scan with y := 1 };
      s.host = [] ∧ isBusy s = true ∧ s.phase = .palExtract ∧ s.point = .scan ∧ s.hdr = some (hdrOf 1 8 4) ∧
      s.dims = some ⟨2, 1, 2, 1⟩ ∧ (1 : BitVec 17).toNat ≤ s.y.toNat) ∧
    ((at_ .decode .enter).host = [] ∧ isBusy (at_ .decode .enter) = true ∧ (at_ .decode .enter).phase = .decode ∧
      (at_ .decode .enter).point = .enter) := by decide

/-- A file whose bytes are all zero, of a length of `n`, its stream ending at offset 128, the search about to begin. -/
def searchState (n : Nat) (version bpp : Byte) : State :=
  { at_ .palExtract .search with
    fileLen := n, file := zeros 0 n, boundary := some 128
    hdr := some { hdrOf 1 bpp 4 with version := version } }

theorem searchState_written {n : Nat} (version bpp : Byte) {a : Nat} (ha : a < (searchState n version bpp).fileLen) :
    (searchState n version bpp).file.get a = some 0 :=
  zeros_get (Nat.zero_le a) (show a < 0 + n by rw [Nat.zero_add]; exact ha)

/-- Files long enough for S2 (896 bytes), for S4 (768) and for none (128); versions and depths on both sides of the gates; below
version 5, and only there, BOUNDARY has no value. -/
theorem witness_StrategiesInOrder : ∀ n ∈ [896, 768, 128], ∀ v ∈ [((4 : Byte), none), (5, some 128)], ∀ bpp ∈ [(4 : Byte), 5],
    let s := { searchState n v.1 bpp with boundary := v.2 }
    let h := { hdrOf 1 bpp 4 with version := v.1 }
    s.host = [] ∧ isBusy s = true ∧ s.phase = .palExtract ∧ s.point = .search ∧ s.hdr = some h ∧ h.hpal.length = 16 ∧
    (5 ≤ h.version.toNat → s.boundary = some 128) ∧
    (∀ a, a < s.fileLen → s.file.get a = some ((fun _ => 0 : Nat → Byte) a)) ∧ s.pal = [] := by
  intro n _ v hv bpp _
  refine ⟨rfl, rfl, rfl, rfl, rfl, rfl, ?_, fun a ha => searchState_written v.1 bpp ha, rfl⟩
  simp only [List.mem_cons, List.not_mem_nil, or_false] at hv
  obtain rfl | rfl := hv
  · exact fun h => absurd h (show ¬5 ≤ (4 : Byte).toNat by decide)
  · exact fun _ => rfl

/-- The byte 12 at offset `m`, zeros elsewhere. -/
def markedAt (m : Nat) : Nat → Byte := fun a => if a = m then 12 else 0

/-- A file with a marker before its 768 bytes: at the end of the stream (S1, 897 bytes), or only 769 bytes from the end (S3, 800
bytes). -/
theorem witness_StrategiesInOrder_marked : ∀ c ∈ [(897, 128, PalSrc.s1, 129), (800, 31, .s3, 32)],
    let s := { searchState c.1 5 8 with file := (zeros 0 c.1).set c.2.1 12 }
    s.host = [] ∧ isBusy s = true ∧ s.phase = .palExtract ∧ s.point = .search ∧ s.hdr = some (hdrOf 1 8 4) ∧
    (hdrOf 1 8 4).hpal.length = 16 ∧ (5 ≤ (hdrOf 1 8 4).version.toNat → s.boundary = some 128) ∧
    (∀ a, a < s.fileLen → s.file.get a = some (markedAt c.2.1 a)) ∧ s.pal = [] ∧
    paletteChoice (markedAt c.2.1) s.fileLen 128 = some (c.2.2.1, c.2.2.2) := by
  intro c hc
  refine ⟨rfl, rfl, rfl, rfl, rfl, rfl, fun _ => rfl, fun a ha => ?_, rfl, ?_⟩
  · by_cases h : a = c.2.1
    · rw [h]
      simpa [markedAt] using Memory.get_set_self _ _ _
    · simp only [markedAt, h, if_false]
      rw [Memory.get_set_of_ne _ _ h]
      exact searchState_written 5 8 ha
  · simp only [List.mem_cons, List.not_mem_nil, or_false] at hc
    obtain rfl | rfl := hc <;> decide

/-- Exactly 768 bytes and version 5; the format clause's one plane of eight bits. -/
theorem witness_LongVersionFiveFileHasPalette :
    let s := searchState 768 5 8
    s.host = [] ∧ isBusy s = true ∧ s.phase = .palExtract ∧ s.point = .search ∧ s.hdr = some (hdrOf 1 8 4) ∧
    s.boundary.isSome = true ∧ FileWritten s ∧ 5 ≤ (hdrOf 1 8 4).version.toNat ∧ 768 ≤ s.fileLen ∧
    (hdrOf 1 8 4).numPlanes.toNat = 1 ∧ (hdrOf 1 8 4).bpp.toNat = 8 :=
  ⟨rfl, rfl, rfl, rfl, rfl, rfl, fun a ha => by rw [searchState_written 5 8 ha]; rfl, by decide, by decide, rfl, rfl⟩

theorem witness_FinishReportsDone : (at_ .finish .enter).host = [] ∧ isBusy (at_ .finish .enter) = true ∧
    (at_ .finish .enter).phase = .finish := by decide

/-- A unit of each row at CURSOR. -/
theorem witness_StepRunsTheUnit :
    (∀ c ∈ [([0x28], Instr.literalLow 0x28), ([0xBF], .literalHigh 0xBF), ([0xC3, 0x7F], .run 3 0x7F)],
      let s := scan .decode 1 8 4 c.1
      InCall (hdrOf 1 8 4) ⟨2, 1, 2, 1⟩ s ∧ s.n.toNat < (hdrOf 1 8 4).bytesPerLine.toNat ∧
      s.cursor + c.1.length ≤ s.fileLen ∧
      (∀ j, ∀ hj : j < c.1.length, s.file.get (s.cursor + j) = some c.1[j]) ∧ decode (.unit c.1) = .ok c.2) ∧
    (∀ bs, InPass (hdrOf 1 8 4) ⟨2, 1, 2, 1⟩ (scan .decode 1 8 4 bs)) := by
  refine ⟨?_, fun bs => ⟨rfl, rfl, rfl, .inr ⟨rfl, by simp [scan]⟩⟩⟩
  unfold InCall
  decide

/-- The clauses with a host move pending. -/
theorem witness_StepRunsTheUnit_host : ∀ m ∈ [Moment.after 1, .notBusy],
    ({ scan .decode 1 8 4 [0x28] with host := [⟨m, .readReg 1⟩] } : State).host = ⟨m, .readReg 1⟩ :: [] := by decide

/-- The selection, and the end of a scanline of the real pass. -/
theorem witness_StepRunsTheFormatRow :
    ((at_ .formatSelect .enter).host = [] ∧ isBusy (at_ .formatSelect .enter) = true ∧
      (at_ .formatSelect .enter).hdr = some (hdrOf 1 8 4) ∧ (at_ .formatSelect .enter).phase = .formatSelect) ∧
    (let s := rowState .gray8 1 [[10]];
      s.host = [] ∧ isBusy s = true ∧ s.hdr = some (hdrOf 1 8 4) ∧ s.phase = .decode ∧ s.point ≠ .enter ∧
      s.dims = some ⟨2, 1, 2, 1⟩ ∧ s.y.toNat < (1 : BitVec 17).toNat ∧ (1 : Byte).toNat ≤ s.p.toNat) := by decide

theorem witness_StepRunsTheCommand : decode (.ctrl 3) = .ok (.reset true 0) ∧
    ({ at_ .dims .enter with host := [⟨.after 0, .writeReg 0 3⟩] } : State).host = ⟨.after 0, .writeReg 0 3⟩ :: [] ∧
    isBusy { State.reset with host := [⟨.notBusy, .writeReg 0 3⟩] } = false ∧
    ({ State.reset with host := [⟨.notBusy, .writeReg 0 3⟩] } : State).host = ⟨.notBusy, .writeReg 0 3⟩ :: [] := by decide

theorem witness_BlockRestsOutsideBusy : isBusy State.reset = false ∧ State.reset.host = [] := by decide

/-- Registers that hold values: offsets at the top of 32 bits, a full palette and header table read at both ends of the windows;
registers that hold none; the ends of the unassigned indices. -/
theorem witness_RegistersReadExtended :
    let s := { at_ .finish .enter with
      fileLen := 2 ^ 32 - 1, boundary := some (2 ^ 32 - 1), pal := List.replicate 256 ⟨1, 2, 3⟩, palCount := 256 }
    (s.fileLen < 2 ^ 32 ∧ s.cursor < 2 ^ 32 ∧ s.boundary = some (2 ^ 32 - 1) ∧ 2 ^ 32 - 1 < 2 ^ 32 ∧
      s.dims = some ⟨2, 1, 2, 1⟩ ∧ s.hdr = some (hdrOf 1 8 4) ∧ s.pal[0]? = some ⟨1, 2, 3⟩ ∧ s.pal[255]? = some ⟨1, 2, 3⟩ ∧
      (hdrOf 1 8 4).hpal[0]? = some ⟨1, 2, 3⟩ ∧ (hdrOf 1 8 4).hpal[15]? = some ⟨1, 2, 3⟩) ∧
    (State.reset.boundary = none ∧ State.reset.dims = none ∧ State.reset.hdr = none ∧ State.reset.pal[0]? = none ∧
      State.reset.pal[255]? = none) ∧
    (∀ k ∈ [10, 15, 31, 48, 255, 512], (10 ≤ k ∧ k ≤ 15) ∨ k = 31 ∨ (48 ≤ k ∧ k ≤ 255) ∨ 512 ≤ k) := by decide

/-- R22: HEIGHT -65534 reads sign-extended; the header's first and last register; an unassigned index between two windows. -/
theorem test_registerWord :
    let s := { at_ .finish .enter with
      hdr := some { hdrOf 1 8 4 with vscreen := 0xFFFF }, dims := some ⟨0, BitVec.ofInt 18 (-65534), 0, 0⟩ }
    registerWord s 6 = some 0xFFFF0002 ∧ registerWord s 16 = some 10 ∧ registerWord s 30 = some 0xFFFF ∧
    registerWord s 31 = none ∧ registerWord s 47 = some 0x010203 := by decide

/-- A register with a value, and one without. -/
theorem witness_HostReadsAValueOrIsRefused :
    let s (k : Nat) := { State.reset with host := [⟨.after 0, .readReg k⟩] }
    isBusy (s 3) = false ∧ (s 3).host = ⟨.after 0, .readReg 3⟩ :: [] ∧ registerWord (s 3) 3 = some 128 ∧
    (s 4).host = ⟨.after 0, .readReg 4⟩ :: [] ∧ registerWord (s 4) 4 = none := by decide

/-- A present and an absent pixel, the first and the last of an image; one column and one row beyond it; an image that is not
valid, without dimensions. -/
theorem witness_PixelPortReads :
    let s (y x : Nat) := { at_ .finish .enter with
      status := { Status.reset with state := .done, imgValid := true }
      pix := [(pixKey 0 0, some ⟨1, 1, 1⟩), (pixKey 0 1, none)], host := [⟨.after 0, .readPixel y x⟩] }
    let r := { State.reset with host := [⟨.after 0, .readPixel 0 0⟩] }
    isBusy (s 0 1) = false ∧ (s 0 1).host = ⟨.after 0, .readPixel 0 1⟩ :: [] ∧ (s 0 1).dims = some ⟨2, 1, 2, 1⟩ ∧
    (s 0 1).status.imgValid = true ∧ 0 < (1 : BitVec 17).toNat ∧ 1 < (2 : BitVec 17).toNat ∧
    (s 0 0).pix.get (pixKey 0 0) = some (some ⟨1, 1, 1⟩) ∧
    (s 0 1).pix.get (pixKey 0 1) = some none ∧ (1 : BitVec 17).toNat ≤ 1 ∧ (2 : BitVec 17).toNat ≤ 2 ∧
    isBusy r = false ∧ r.host = ⟨.after 0, .readPixel 0 0⟩ :: [] ∧ r.status.imgValid = false := by decide

/-- R34, R28: a present pixel reads as its packed word, an absent one as present = 0. -/
theorem test_pixelPort :
    let s := { at_ .finish .enter with
      status := { Status.reset with state := .done, imgValid := true }
      pix := [(pixKey 0 0, some ⟨1, 2, 3⟩), (pixKey 0 1, none)] }
    pixelPort s 0 0 = some (some 0x010203) ∧ pixelPort s 0 1 = some none ∧ pixelPort s 0 2 = none := by decide

/-- Each host move while BUSY. -/
theorem witness_BusyHostMayReadOnlyState : ∀ op ∈ [HostOp.readReg 1, .readReg 0, .readReg 2, .readPixel 0 0, .writeFile 0 0,
    .writeReg 2 0], let s := { at_ .dims .enter with host := [⟨.after 0, op⟩] }
    isBusy s = true ∧ s.host = ⟨.after 0, op⟩ :: [] := by decide

theorem witness_BlockNeverWritesTheFile : ∃ t u, (takeTurn (scan .decode 1 8 4 [0x28])).1 = none ∧
    step (scan .decode 1 8 4 [0x28]) = .next t ∧ exec (.literalLow 0x28) (scan .decode 1 8 4 [0x28]) = .next u :=
  ⟨_, _, rfl, rfl, rfl⟩

/-- A step that is no write to CTRL; offsets and lengths at both sides of what 8 and 32 bits of ADDR_W hold; other indices, in BUSY
too. -/
theorem witness_ResultsStayUntilACommand :
    (∃ t, isBusy { State.reset with host := [⟨.after 0, .writeReg 2 136⟩] } = false ∧
      (∀ w, (takeTurn { State.reset with host := [⟨.after 0, .writeReg 2 136⟩] }).1 ≠ some (.writeReg 0 w)) ∧
      step { State.reset with host := [⟨.after 0, .writeReg 2 136⟩] } = .next t) ∧
    (∀ a ∈ [0, 2 ^ 32 - 1], let s := { State.reset with host := [⟨.after 0, .writeFile a 7⟩] }
      isBusy s = false ∧ s.host = ⟨.after 0, .writeFile a 7⟩ :: [] ∧ a < 2 ^ s.params.addrW) ∧
    (let s := { State.reset with host := [⟨.after 0, .writeFile (2 ^ 32) 7⟩] };
      isBusy s = false ∧ s.host = ⟨.after 0, .writeFile (2 ^ 32) 7⟩ :: [] ∧ 2 ^ s.params.addrW ≤ 2 ^ 32) ∧
    (∀ w ∈ [(255 : Word), 256], let s := { State.reset with
        params := { Config.Params.standard with addrW := 8 }, host := [⟨.after 0, .writeReg 2 w⟩] }
      isBusy s = false ∧ s.host = ⟨.after 0, .writeReg 2 w⟩ :: [] ∧ (w.toNat < 2 ^ s.params.addrW ↔ w = 255)) ∧
    ((∀ k, ({ at_ .dims .enter with host := [⟨.after 0, .writeReg k 0⟩] } : State).host = ⟨.after 0, .writeReg k 0⟩ :: []) ∧
      ∀ k ∈ [1, 3, 9, 10, 511, 512], k ≠ 0 ∧ k ≠ 2) :=
  ⟨⟨_, rfl, fun w => by simp [takeTurn], rfl⟩, by decide, by decide, fun w hw => ⟨rfl, rfl, by
    simp only [List.mem_cons, List.not_mem_nil, or_false] at hw
    obtain rfl | rfl := hw <;> decide⟩, fun _ => rfl, by decide⟩

/-- States in the middle of a decode that meet every invariant and step. -/
theorem witness_MemoriesStayCanonical : ∃ t, Canonical (rowState .gray8 1 [[10]]) ∧ step (rowState .gray8 1 [[10]]) = .next t :=
  ⟨_, by decide +kernel, rfl⟩

theorem witness_CursorStaysInRange : ∃ t, InRange (scan .decode 1 8 4 [0x28]) ∧ step (scan .decode 1 8 4 [0x28]) = .next t :=
  ⟨_, by decide +kernel, rfl⟩

theorem witness_ErrorAndIdleStayCoherent : ∃ t, (ErrorCoherent (scan .decode 1 8 4 [0x28]) ∧ IdleIsReset (scan .decode 1 8 4 [0x28])) ∧
    step (scan .decode 1 8 4 [0x28]) = .next t :=
  ⟨_, ⟨⟨fun h => absurd h (by decide), fun _ _ => rfl, fun _ h => absurd h (by decide)⟩, fun h => absurd h (by decide)⟩, rfl⟩

/-- An IndexedViaLuma decode, with its palette and luma table. -/
def indexedState : State :=
  { scan .decode 1 8 4 [0x28] with
    status := { (scan .decode 1 8 4 [0x28]).status with format := .indexedViaLuma, palPresent := true, palSrc := .s4 }
    palCount := 256, pal := List.replicate 256 ⟨1, 1, 1⟩, luma := List.replicate 256 1 }

theorem witness_ResultsStayCoherent : ∃ t, (ErrorCoherent indexedState ∧ ResultCoherent indexedState) ∧
    step indexedState = .next t := by
  refine ⟨_, ⟨⟨fun h => absurd h (by decide), fun _ _ => rfl, fun _ h => absurd h (by decide)⟩, ?_, fun _ => ?_⟩, rfl⟩
  · intro h hh
    obtain rfl : hdrOf 1 8 4 = h := Option.some.inj hh
    rfl
  · refine ⟨by decide, rfl, List.length_replicate, by decide, by decide, fun h => absurd h (by decide),
      fun _ => ⟨rfl, List.length_replicate⟩, fun h => absurd h (by decide), fun _ _ h => absurd rfl h, fun _ h => absurd rfl h,
      fun _ _ => rfl, fun _ _ _ => rfl, fun _ _ _ _ => rfl⟩

/-- One row assembled, the pass about to end. -/
theorem witness_PixelsStayDefined : ∃ t,
    let s := { scan .decode 1 8 4 [] with y := 1, pix := [(pixKey 0 0, none), (pixKey 0 1, none)] }
    PixelsDefined s ∧ step s = .next t := by
  refine ⟨_, ⟨?_, ?_⟩, rfl⟩
  · rintro (h | ⟨_, h⟩)
    · exact absurd h (by decide)
    · exact absurd h (by decide)
  · intro _ _ _ d hd y x hy hx
    obtain rfl : (⟨2, 1, 2, 1⟩ : Dims) = d := Option.some.inj hd
    have h1 : y < 1 := hy
    have h2 : x < 2 := hx
    interval_cases y
    interval_cases x <;> rfl

theorem written_zeros {s : State} {n : Nat} (hf : s.file = zeros 0 n) (hl : s.fileLen ≤ n) : FileWritten s := by
  intro a ha
  rw [hf, zeros_get (Nat.zero_le a) (by omega)]
  rfl

/-- A dry run that has yet to begin, over a written file of 128 bytes. -/
theorem ready_palExtract : Ready (at_ .palExtract .enter) :=
  ⟨rfl, written_zeros rfl (by decide), fun _ => ⟨by decide, by decide, by decide,
    fun h => absurd h (by decide), fun h => absurd h (by decide)⟩⟩

theorem witness_ReadyBlockAlwaysSteps : Ready (at_ .palExtract .enter) ∧ InRange (at_ .palExtract .enter) ∧
    isBusy (at_ .palExtract .enter) = true :=
  ⟨ready_palExtract, by decide, rfl⟩

theorem witness_EveryDecodeEnds : Ready (at_ .palExtract .enter) ∧ InRange (at_ .palExtract .enter) ∧
    isBusy (at_ .palExtract .enter) = true := ⟨ready_palExtract, by decide, rfl⟩

theorem witness_PassesStayInStep :
    let a := scan .palExtract 1 8 4 []
    let b := scan .decode 1 8 4 []
    SamePlace a b ∧ FileWritten a ∧ a.cursor ≤ a.fileLen :=
  ⟨⟨⟨rfl, rfl, rfl⟩, ⟨rfl, rfl, rfl⟩, ⟨rfl, rfl⟩, ⟨rfl, rfl⟩, ⟨rfl, rfl⟩, ⟨rfl, rfl⟩, ⟨rfl, rfl, rfl, rfl⟩⟩,
    written_zeros rfl (by decide), by decide⟩

theorem witness_DoneCursorIsBoundary : Ready (at_ .palExtract .enter) ∧ InRange (at_ .palExtract .enter) ∧
    isBusy (at_ .palExtract .enter) = true ∧ (at_ .palExtract .enter).phase = .palExtract ∧
    (at_ .palExtract .enter).point = .enter ∧ (at_ .palExtract .enter).hdr = some (hdrOf 1 8 4) ∧
    5 ≤ (hdrOf 1 8 4).version.toNat := ⟨ready_palExtract, by decide, rfl, rfl, rfl, rfl, by decide⟩

/-- A step that goes on, and one that is refused for an unwritten byte below L. -/
theorem witness_BytesBeyondTheFileDoNotMatter :
    (∃ t, (scan .decode 1 8 4 []).host = [] ∧ (scan .decode 1 8 4 []).fileLen ≤ 128 ∧
      step (scan .decode 1 8 4 []) = .next t) ∧
    (let s := { at_ .hdrParse .enter with file := [] };
      s.host = [] ∧ s.fileLen ≤ 128 ∧ step s = .refused .fileByteNoValue) :=
  ⟨⟨_, rfl, by decide, rfl⟩, rfl, by decide, rfl⟩

end Sys2Proof.Tests
end

section
/-! What a host move that is due does to a step, and what a word written to CTRL does (30_encoding.md R99). -/

namespace Sys2Proof.Machine

/-! ## Host moves that are due -/

theorem takeTurn_due {s : State} {op : HostOp} {rest : List HostMove} (h : s.host = ⟨.after 0, op⟩ :: rest) :
    takeTurn s = (some op, { s with host := rest }) := by
  unfold takeTurn; rw [h]

/-- When a host move is due the step is that move, made in the state with the move off the list. -/
theorem step_hostDue {s : State} {op : HostOp} {rest : List HostMove} (h : s.host = ⟨.after 0, op⟩ :: rest) :
    step s = (planHost op { s with host := rest }).run := by
  unfold step plan; rw [takeTurn_due h]

/-- A due write to CTRL executes the command its word decodes to. -/
theorem step_ctrlWrite {s : State} {w : Word} {rest : List HostMove} (h : s.host = ⟨.after 0, .writeReg 0 w⟩ :: rest) :
    step s = exec (decodeCtrl w) { s with host := rest } := by
  rw [step_hostDue h]; rfl

/-! ## The commands by the two low bits of their words -/

theorem decodeCtrl_reset {w : Word} (h : 2 ≤ w.toNat % 4) :
    decodeCtrl w = .reset (w.getLsbD 0) (w.extractLsb' 2 30) := by
  rw [decodeCtrl_eq, if_neg (by omega), if_pos h]

theorem decodeCtrl_start {w : Word} (h : w.toNat % 4 = 1) : decodeCtrl w = .start (w.extractLsb' 2 30) := by
  rw [decodeCtrl_eq, if_pos h]

theorem decodeCtrl_ctrlNop {w : Word} (h : w.toNat % 4 = 0) : decodeCtrl w = .ctrlNop (w.extractLsb' 2 30) := by
  rw [decodeCtrl_eq, if_neg (by omega), if_neg (by omega)]

theorem exec_ctrlNop (ignored : BitVec 30) (s : State) : exec (.ctrlNop ignored) s = .next s := rfl

/-- Settles O18: the step executes the decoded word, and the decoded command depends on the word's two low bits. -/
theorem ctrlWriteObeysItsTwoBits : Obligations.CtrlWriteObeysItsTwoBits := by
  intro s w rest hw
  rw [step_ctrlWrite hw]
  refine ⟨fun hreset => ?_, fun hstart => ?_, fun hnop => ?_⟩
  · exact ⟨_, _, by rw [decodeCtrl_reset hreset]⟩
  · exact ⟨_, by rw [decodeCtrl_start hstart]⟩
  · rw [decodeCtrl_ctrlNop hnop, exec_ctrlNop]

end Sys2Proof.Machine
end

section
/-! What RESET, INIT and FINISH make of the block (40_sequencer_host_commands.md R121, R124, R127). -/

namespace Sys2Proof.Machine

/-! ## RESET -/

theorem exec_reset (startBit : Bool) (ignored : BitVec 30) (s : State) :
    exec (.reset startBit ignored) s = .next (resetBlock s) := rfl

theorem reset_status_word : State.reset.status.word = 0 := by decide

/-- Settles O16: RESET executes `resetBlock`, whose fields are those of the reset state but for FILE and the host's moves. -/
theorem resetCommandInEveryState : Obligations.ResetCommandInEveryState := by
  intro startBit ignored s
  refine ⟨resetBlock s, exec_reset startBit ignored s, ?status, ?fileLen, ?cursor, ?palCount, ?boundary, ?hdr, ?dims, ?pal, ?luma,
    ?line, ?lineLen, ?pix, ?file, ?host⟩
  case status => rw [resetBlock_status, reset_status_word]
  case file => exact fun a => by rw [resetBlock_file]
  case host => exact resetBlock_host s
  all_goals rfl

/-! ## The phases of one operation -/

/-- With no host move pending a busy block runs the operation PHASE names (R122). -/
theorem step_phase {s : State} (hq : s.host = []) (hb : isBusy s = true) : step s = (planPhase s).run := by
  rw [step_block hq, planBlock, if_pos hb]

theorem step_init {s : State} (hq : s.host = []) (hb : isBusy s = true) (hp : s.phase = .init) :
    step s = .next (initDecode s) := by
  rw [step_phase hq hb, planPhase, hp]; rfl

theorem step_finish {s : State} (hq : s.host = []) (hb : isBusy s = true) (hp : s.phase = .finish) :
    step s = .next (finish s) := by
  rw [step_phase hq hb, planPhase, hp]; rfl

/-! ## INIT -/

/-- INIT keeps STATE alone, so STATUS is the code of BUSY (R26, R124). -/
theorem cleared_word_of_busy {t : Status} (h : t.state = .busy) : t.cleared.word = 1 := by
  rw [Status.cleared, h]; decide

/-- Settles O28: the step at INIT is `initDecode`, which clears STATUS to the code of BUSY and every result, and keeps FILE. -/
theorem initClearsEveryResult : Obligations.InitClearsEveryResult := by
  intro s hq hb hp
  have hword : (initDecode s).status.word = 1 := by
    rw [initDecode_status, cleared_word_of_busy (isBusy_iff.1 hb)]
  exact ⟨initDecode s, step_init hq hb hp, hword, initDecode_palCount s, initDecode_cursor s, initDecode_boundary s, initDecode_hdr s,
    initDecode_dims s, initDecode_pal s, initDecode_luma s, initDecode_pix s, initDecode_fileLen s,
    fun a => by rw [initDecode_file]⟩

/-! ## FINISH -/

/-- Settles O38: the step at FINISH is `finish`, which writes STATE and IMG_VALID only. -/
theorem finishReportsDone : Obligations.FinishReportsDone := by
  intro s hq hb hp
  exact ⟨finish s, step_finish hq hb hp, by rw [finish_status], by rw [finish_status], finish_cursor s, rfl⟩

end Sys2Proof.Machine
end

section
/-! HDR_PARSE, VALIDATE and DIMS (41_header_parse.md R141 to R144): what each leaves, and the header's fields as a function of the
file's bytes. -/

namespace Sys2Proof.Machine

/-! ## The steps of the header's phases -/

theorem step_hdrParse {s : State} (hq : s.host = []) (hb : isBusy s = true) (hp : s.phase = .hdrParse) :
    step s = outcomeOf (hdrParse s) := by
  rw [step_phase hq hb, planPhase, hp]; rfl

theorem step_validate {s : State} (hq : s.host = []) (hb : isBusy s = true) (hp : s.phase = .validate) :
    step s = outcomeOf (validate s) := by
  rw [step_phase hq hb, planPhase, hp]; rfl

theorem step_dims {s : State} (hq : s.host = []) (hb : isBusy s = true) (hp : s.phase = .dims) :
    step s = outcomeOf (computeDims s) := by
  rw [step_phase hq hb, planPhase, hp]; rfl

/-! ## HDR_PARSE -/

theorem hdrParse_short {s : State} (hl : s.fileLen < 128) : hdrParse s = .ok (raiseError .invalidHeader s) := if_pos hl

theorem hdrParse_long_ok {s t : State} (hl : 128 ≤ s.fileLen) :
    hdrParse s = .ok t ↔ ∃ h, readHeader s = .ok h ∧ goPhase .validate { s with hdr := some h } = t := by
  rw [hdrParse, if_neg (show ¬ s.fileLen < Config.headerLen from Nat.not_lt.2 hl)]
  simp only [bind_ok, pure_ok]

theorem step_shortFile {s : State} (hq : s.host = []) (hb : isBusy s = true) (hp : s.phase = .hdrParse) (hl : s.fileLen < 128) :
    step s = .next (raiseError .invalidHeader s) := by
  rw [step_hdrParse hq hb hp, hdrParse_short hl, outcomeOf_ok]

/-- Settles O30: below 128 bytes the step is `raiseError`, which FILE has no part in; from 128 bytes on HDR_PARSE writes no field of
STATUS. -/
theorem shortFileIsInvalidHeader : Obligations.ShortFileIsInvalidHeader := by
  intro s hq hb hp
  constructor
  · intro hl
    have hstep : ∀ f, step { s with file := f } = .next (raiseError .invalidHeader { s with file := f }) :=
      fun f => step_shortFile (s := { s with file := f }) hq hb hp hl
    exact ⟨raiseError .invalidHeader s, step_shortFile hq hb hp hl, by rw [raiseError_status], by rw [raiseError_status], hstep⟩
  · intro hl t ht
    rw [step_hdrParse hq hb hp, outcomeOf_next, hdrParse_long_ok hl] at ht
    obtain ⟨h, -, rfl⟩ := ht
    exact ⟨isBusy_iff.1 hb, goPhase_status _ _⟩

/-! ## The header's fields -/

theorem u16_toNat (lo hi : Byte) : (u16 lo hi).toNat = lo.toNat + 256 * hi.toNat := by
  rw [u16, BitVec.toNat_append, ← Nat.shiftLeft_add_eq_or_of_lt lo.isLt, Nat.shiftLeft_eq]
  omega

theorem fileHalf_ok {s : State} {a : Nat} {lo hi : Byte} (hlo : fileByte s a = .ok lo) (hhi : fileByte s (a + 1) = .ok hi) :
    fileHalf s a = .ok (u16 lo hi) := by
  rw [fileHalf, hlo, hhi]; rfl

/-- The table of `k` triples that bytes `f` hold from `base` on. -/
def triplesAt (f : Nat → Byte) (base k : Nat) : List Rgb := (List.range k).map fun i => tripleAt f (base + 3 * i)

theorem triplesAt_length (f : Nat → Byte) (base k : Nat) : (triplesAt f base k).length = k := by simp [triplesAt]

theorem triplesAt_getElem? (f : Nat → Byte) (base : Nat) {k i : Nat} (hi : i < k) :
    (triplesAt f base k)[i]? = some (tripleAt f (base + 3 * i)) := by
  simp [triplesAt, hi]

/-- Where every byte of a table is one of `f`'s, the table read is `f`'s. -/
theorem fileTriples_eq {s : State} {f : Nat → Byte} {base k : Nat}
    (hf : ∀ a, base ≤ a → a < base + 3 * k → fileByte s a = .ok (f a)) :
    fileTriples s base k = .ok (triplesAt f base k) := by
  obtain ⟨ts, hts⟩ := fileTriples_exists fun a h1 h2 => ⟨f a, hf a h1 h2⟩
  obtain ⟨hlen, hget⟩ := fileTriples_ok hts
  have hsame : ts = triplesAt f base k := by
    refine List.ext_getElem (by rw [hlen, triplesAt_length]) fun i hi _ => ?_
    have htriple : fileTriple s (base + 3 * i) = .ok (tripleAt f (base + 3 * i)) :=
      fileTriple_ok.2 ⟨hf _ (by omega) (by omega), hf _ (by omega) (by omega), hf _ (by omega) (by omega)⟩
    have heq : ts[i] = tripleAt f (base + 3 * i) := Except.ok.inj ((hget i hi).symm.trans htriple)
    simpa [triplesAt] using heq
  rw [hts, hsame]

/-- The header that bytes `f` hold, each field at the offset R142 gives it. -/
def headerAt (f : Nat → Byte) : Header where
  manufacturer := f 0
  version := f 1
  encoding := f 2
  bpp := f 3
  xmin := u16 (f 4) (f 5)
  ymin := u16 (f 6) (f 7)
  xmax := u16 (f 8) (f 9)
  ymax := u16 (f 10) (f 11)
  hdpi := u16 (f 12) (f 13)
  vdpi := u16 (f 14) (f 15)
  hpal := triplesAt f 16 16
  numPlanes := f 65
  bytesPerLine := u16 (f 66) (f 67)
  paletteInfo := u16 (f 68) (f 69)
  hscreen := u16 (f 70) (f 71)
  vscreen := u16 (f 72) (f 73)

/-- The header is read off bytes 0 to 63 and 65 to 73 alone. -/
theorem readHeader_eq {s : State} {f : Nat → Byte} (hf : ∀ a, a < 74 → a ≠ 64 → fileByte s a = .ok (f a)) :
    readHeader s = .ok (headerAt f) := by
  have half : ∀ a, a + 1 < 74 → a ≠ 63 → a ≠ 64 → fileHalf s a = .ok (u16 (f a) (f (a + 1))) := fun a _ _ _ =>
    fileHalf_ok (hf a (by omega) (by omega)) (hf (a + 1) (by omega) (by omega))
  have table : fileTriples s 16 Config.hpalEntries = .ok (triplesAt f 16 16) :=
    fileTriples_eq (k := 16) fun a _ _ => hf a (by omega) (by omega)
  simp (disch := decide) only [readHeader, hf, half, table]
  rfl

/-- Settles O31: the step at HDR_PARSE records `headerAt`, the header of the file's bytes. -/
theorem headerFieldsExtracted : Obligations.HeaderFieldsExtracted := by
  intro s f hq hb hp hl hf
  have hread : readHeader s = .ok (headerAt f) :=
    readHeader_eq fun a ha hne => fileByte_ok.2 ⟨by omega, hf a ha hne⟩
  have hstep : step s = .next (goPhase .validate { s with hdr := some (headerAt f) }) := by
    rw [step_hdrParse hq hb hp, outcomeOf_next, hdrParse_long_ok hl]
    exact ⟨_, hread, rfl⟩
  exact ⟨_, headerAt f, hstep, rfl, rfl, rfl, rfl, rfl, rfl, u16_toNat _ _, u16_toNat _ _, u16_toNat _ _, u16_toNat _ _,
    u16_toNat _ _, u16_toNat _ _, triplesAt_length f 16 16, fun _ hi => triplesAt_getElem? f 16 hi, rfl,
    u16_toNat _ _, u16_toNat _ _, u16_toNat _ _, u16_toNat _ _⟩

/-! ## VALIDATE -/

theorem manufacturerId_iff (m : Byte) : m = Config.manufacturerId ↔ m.toNat = 10 := BitVec.toNat_inj.symm

theorem validate_accepts {s : State} {h : Header} (hh : s.hdr = some h) (hm : h.manufacturer.toNat = 10) :
    validate s = .ok (goPhase .dims { s with status := { s.status with hdrValid := true } }) := by
  rw [validate, bind_ok]
  exact ⟨h, header_ok.2 hh, by rw [if_pos ((manufacturerId_iff _).2 hm)]; rfl⟩

theorem validate_rejects {s : State} {h : Header} (hh : s.hdr = some h) (hm : h.manufacturer.toNat ≠ 10) :
    validate s = .ok (raiseError .notAPcxFile s) := by
  rw [validate, bind_ok]
  exact ⟨h, header_ok.2 hh, by rw [if_neg (mt (manufacturerId_iff _).1 hm)]; rfl⟩

/-- Settles O32: on the manufacturer byte 10 VALIDATE sets HDR_VALID and goes on to DIMS, on any other it raises NotAPCXFile. -/
theorem manufacturerByteDecides : Obligations.ManufacturerByteDecides := by
  intro s h hq hb hp hh
  rw [step_validate hq hb hp]
  by_cases hm : h.manufacturer.toNat = 10
  · exact ⟨_, outcomeOf_next.2 (validate_accepts hh hm), fun _ => rfl, fun hne => absurd hm hne⟩
  · exact ⟨_, outcomeOf_next.2 (validate_rejects hh hm), fun heq => absurd heq hm, fun _ => ⟨rfl, rfl⟩⟩

/-! ## DIMS -/

/-- Two 16-bit fields differ by less than 65536, so 18 signed bits hold the extent (R144). -/
theorem extent_toInt (lo hi : Half) : (BitVec.ofInt 18 (extent lo hi)).toInt = extent lo hi := by
  have hlo := lo.isLt
  have hhi := hi.isLt
  refine BitVec.toInt_ofInt_eq_self (by decide) ?_ ?_ <;> unfold extent <;> omega

/-- The positive part of an extent fits 17 bits (R144). -/
theorem extent_positivePart (lo hi : Half) :
    ((BitVec.ofNat 17 (extent lo hi).toNat).toNat : Int) = max (extent lo hi) 0 := by
  have hle := extent_le lo hi
  rw [BitVec.toNat_ofNat, Nat.mod_eq_of_lt (by omega), Int.toNat_eq_max]

theorem computeDims_holds {s : State} {h : Header} (hh : s.hdr = some h) (hc : holdsHeader s.params h = true) :
    computeDims s = .ok (recordDims h s) := by
  rw [computeDims, bind_ok]
  exact ⟨h, header_ok.2 hh, by rw [if_pos hc]; rfl⟩

/-- Settles O34: the capacities hold the header, so the step is `recordDims`, whose extents fit their widths. -/
theorem dimensionsAreExact : Obligations.DimensionsAreExact := by
  intro s h hq hb hp hh hcap
  have hholds : holdsHeader s.params h = true := by
    rcases hcap with hstd | ⟨hline, hpix⟩
    · rw [hstd]; exact holdsHeader_standard h
    · rw [holdsHeader, decide_eq_true hline, decide_eq_true hpix]; rfl
  have hwidth : (dimsOf h).width.toInt = extent h.xmin h.xmax := extent_toInt _ _
  have hheight : (dimsOf h).height.toInt = extent h.ymin h.ymax := extent_toInt _ _
  have hstep : step s = .next (recordDims h s) := by
    rw [step_dims hq hb hp, computeDims_holds hh hholds, outcomeOf_ok]
  refine ⟨recordDims h s, dimsOf h, hstep, recordDims_dims h s, hwidth, hheight, ?cols, ?rows, ?dimBad⟩
  case cols => rw [hwidth]; exact extent_positivePart _ _
  case rows => rw [hheight]; exact extent_positivePart _ _
  case dimBad => rw [hwidth, hheight, recordDims_status]; exact decide_eq_true_iff

end Sys2Proof.Machine
end

section
/-! The search for a palette (42_palette_extract.md R150 to R161): on a file whose bytes are known each operation answers a function
of those bytes, and S1 to S4 together find the table that `paletteChoice` places. -/

namespace Sys2Proof.Machine

theorem step_searchPalette {s : State} (hq : s.host = []) (hb : isBusy s = true) (hp : s.phase = .palExtract)
    (hpt : s.point = .search) : step s = outcomeOf (searchPalette s) := by
  rw [step_phase hq hb, planPhase, hp, hpt]; rfl

theorem searchPalette_ok {s : State} {h : Header} {found : Option (List Rgb × PalSrc)} (hh : s.hdr = some h)
    (hf : findPalette h s = .ok found) : searchPalette s = .ok (recordPalette found s) := by
  rw [searchPalette, bind_ok]
  exact ⟨h, header_ok.2 hh, bind_ok.2 ⟨found, hf, rfl⟩⟩

theorem versionGate_iff {h : Header} : versionGate h = true ↔ 5 ≤ h.version.toNat := decide_eq_true_iff

theorem pal256Bytes_eq : Config.pal256Bytes = 768 := rfl

/-! ## The chosen strategy -/

/-- Which of S1 to S4 supplies the palette: none below the version gate, whatever BOUNDARY holds (R151). -/
def gatedChoice (h : Header) (f : Nat → Byte) (len e : Nat) : Option (PalSrc × Nat) :=
  if 5 ≤ h.version.toNat then paletteChoice f len e else none

/-- The table of 256 triples at a strategy's place, with the strategy. -/
def chosenTable (f : Nat → Byte) (c : PalSrc × Nat) : List Rgb × PalSrc := (triplesAt f c.2 256, c.1)

/-- A palette of S1 to S4 has 256 entries (R161). -/
theorem paletteChoice_count {f : Nat → Byte} {len e : Nat} {c : PalSrc × Nat} (hc : paletteChoice f len e = some c) :
    c.1.count = 256 := by
  unfold paletteChoice at hc
  split_ifs at hc <;> cases hc <;> rfl

theorem gatedChoice_count {h : Header} {f : Nat → Byte} {len e : Nat} {c : PalSrc × Nat}
    (hc : gatedChoice h f len e = some c) : c.1.count = 256 := by
  rw [gatedChoice, Option.ite_none_right_eq_some] at hc
  exact paletteChoice_count hc.2

/-! ## On a file of known bytes -/

section
variable {s : State} {f : Nat → Byte} (hf : ∀ a, a < s.fileLen → fileByte s a = .ok (f a))
include hf

/-- The marker is found where the byte exists and is 12. -/
theorem markerAt_eq {there : Prop} [Decidable there] {a : Nat} (ha : there → a < s.fileLen) :
    markerAt s there a = .ok (decide (there ∧ f a = 12)) := by
  by_cases ht : there
  · rw [markerAt, if_pos ht, hf a (ha ht), decide_eq_decide.2 (and_iff_right ht)]; rfl
  · rw [markerAt, if_neg ht, decide_eq_false (mt And.left ht)]; rfl

theorem parse768_eq {base : Nat} (hb : base + 768 ≤ s.fileLen) : parse768 s base = .ok (triplesAt f base 256) :=
  fileTriples_eq (k := 256) fun a _ _ => hf a (by omega)

/-- S1 to S4 find the table that `paletteChoice` places: the model's tests are its tests, in its order. -/
theorem search256_eq (e : Nat) : search256 s e = .ok ((paletteChoice f s.fileLen e).map (chosenTable f)) := by
  have table : ∀ base src, base + 768 ≤ s.fileLen →
      (parse768 s base >>= fun t => pure (some (t, src))) = .ok (some (chosenTable f (src, base))) :=
    fun base src hb => bind_ok.2 ⟨_, parse768_eq hf hb, rfl⟩
  rw [search256, paletteChoice, pal256Bytes_eq]
  refine bind_ok.2 ⟨_, markerAt_eq hf id, ?_⟩
  simp only [decide_eq_true_eq, and_assoc]
  split
  case isTrue s1 => exact table _ _ (by omega)
  case isFalse =>
    split
    case isTrue s2 => exact table _ _ s2
    case isFalse =>
      refine bind_ok.2 ⟨_, markerAt_eq hf fun _ => by omega, ?_⟩
      simp only [decide_eq_true_eq, gt_iff_lt]
      split
      case isTrue s3 => exact table _ _ (by omega)
      case isFalse =>
        split
        case isTrue s4 => exact table _ _ (by omega)
        case isFalse => rfl

/-- What is found: the table of the chosen strategy, else the header's (R150). -/
theorem findPalette_eq {h : Header} {e : Nat} (he : 5 ≤ h.version.toNat → s.boundary = some e) :
    findPalette h s = .ok ((gatedChoice h f s.fileLen e).map (chosenTable f) <|> headerPalette h) := by
  by_cases hv : 5 ≤ h.version.toNat
  · rw [findPalette, if_pos (versionGate_iff.2 hv), gatedChoice, if_pos hv]
    exact bind_ok.2 ⟨e, boundaryOffset_ok.2 (he hv), bind_ok.2 ⟨_, search256_eq hf e, rfl⟩⟩
  · rw [findPalette, if_neg (mt versionGate_iff.1 hv), gatedChoice, if_neg hv]; rfl

end

/-- Settles O36: the step records what `findPalette` finds on the file's bytes: the chosen strategy's table, else the header's, else
none. -/
theorem strategiesInOrder : Obligations.StrategiesInOrder := by
  intro s h f e hq hb hp hpt hh _ he hfile hpal
  have hfound := findPalette_eq (fun a ha => fileByte_ok.2 ⟨ha, hfile a ha⟩) he
  refine ⟨_, by rw [step_searchPalette hq hb hp hpt, searchPalette_ok hh hfound, outcomeOf_ok], ?_⟩
  rw [← gatedChoice]
  cases hc : gatedChoice h f s.fileLen e with
  | some c =>
    exact ⟨rfl, rfl, rfl, gatedChoice_count hc, triplesAt_length f c.2 256, fun _ hi => triplesAt_getElem? f c.2 hi⟩
  | none =>
    by_cases hbpp : h.bpp.toNat ≤ 4
    · have htable : headerPalette h = some (h.hpal, .s5) := if_pos hbpp
      rw [htable]
      exact ⟨rfl, by rw [if_pos hbpp]; exact ⟨rfl, rfl, rfl, rfl⟩⟩
    · have hnone : headerPalette h = none := if_neg hbpp
      rw [hnone]
      exact ⟨rfl, by rw [if_neg hbpp]; exact ⟨rfl, rfl, rfl, hpal⟩⟩

end Sys2Proof.Machine
end

section
/-! Units of the RLE stream (43_rle_decode.md R170 to R174, R178): each unit is one `appendUnit`, whose copies are stored in the real
pass alone and whose N does not wrap within the budget. -/

namespace Sys2Proof.Machine

/-! ## Every unit is one append -/

/-- Either LITERAL row appends one copy of its byte (R171). -/
theorem exec_literal {i : Instr} {v : Byte} (hi : i = .literalLow v ∨ i = .literalHigh v) (s : State) :
    exec i s = .next (appendUnit 1 1 v s) := by
  rcases hi with rfl | rfl <;> rfl

/-- RUN appends its clipped copies wherever there is a header (R172). -/
theorem exec_run {s : State} {h : Header} (hh : s.hdr = some h) (c : BitVec 6) (v : Byte) :
    exec (.run c v) s = .next (appendUnit 2 (runCopies c h.bytesPerLine s.n) v s) :=
  outcomeOf_next.2 (bind_ok.2 ⟨h, header_ok.2 hh, rfl⟩)

/-! ## What an append does -/

theorem appendUnit_frame (len k : Nat) (v : Byte) (s : State) :
    appendUnit len k v s = { s with
      line := (appendUnit len k v s).line, n := (appendUnit len k v s).n, cursor := (appendUnit len k v s).cursor } := rfl

/-- N does not wrap while the copies stay within a 16-bit budget (R173). -/
theorem appendUnit_n_toNat {k : Nat} {s : State} {b : BitVec 16} (hk : s.n.toNat + k ≤ b.toNat) (len : Nat) (v : Byte) :
    (appendUnit len k v s).n.toNat = s.n.toNat + k := by
  have hb := b.isLt
  rw [appendUnit_n, BitVec.toNat_add, BitVec.toNat_ofNat, Nat.add_mod_mod, Nat.mod_eq_of_lt (by omega)]

/-- In the real pass every position the append reaches holds the value. -/
theorem appendUnit_line_get_of_storing {s : State} (hs : storing s = true) {j k : Nat} (hj : j < k) (len : Nat) (v : Byte) :
    (appendUnit len k v s).line.get (lineKey s.p.toNat (s.n.toNat + j)) = some v := by
  have hkey : lineKey s.p.toNat (s.n.toNat + j) = lineKey s.p.toNat s.n.toNat + j := (Nat.add_assoc ..).symm
  rw [appendUnit_line, if_pos hs, storeCopies_get, hkey, if_pos (by omega)]

/-- The dry run stores nothing (R178). -/
theorem appendUnit_line_of_not_storing {s : State} (hs : storing s = false) (len k : Nat) (v : Byte) :
    (appendUnit len k v s).line = s.line := by
  rw [appendUnit_line, hs, if_neg Bool.false_ne_true]

/-! ## LITERAL and RUN -/

/-- Settles O3: a LITERAL is the append of one copy, and N < B leaves room for it. -/
theorem literalAppendsItsByte : Obligations.LiteralAppendsItsByte := by
  intro i v s h hi _ _ hn _
  exact ⟨_, exec_literal hi s, appendUnit_frame .., appendUnit_n_toNat (Nat.succ_le_of_lt hn) .., rfl,
    fun hs => appendUnit_line_get_of_storing hs Nat.zero_lt_one .., fun hs => appendUnit_line_of_not_storing hs ..⟩

/-- Settles O4: a RUN is the append of `runCopies` copies, which never exceed the room N <= B leaves. -/
theorem runAppendsClippedCopies : Obligations.RunAppendsClippedCopies := by
  intro c v s h hh hn _
  have hroom : s.n.toNat + runCopies c h.bytesPerLine s.n ≤ h.bytesPerLine.toNat := by
    have hclip := runCopies_le c h.bytesPerLine s.n
    omega
  have hN := appendUnit_n_toNat hroom 2 v
  exact ⟨_, exec_run hh c v, appendUnit_frame .., hN, hN.trans_le hroom, rfl,
    fun hs _ hj => appendUnit_line_get_of_storing hs hj .., fun hs => appendUnit_line_of_not_storing hs ..⟩

end Sys2Proof.Machine
end

section
/-! The rows of the real pass (44_pixel_assemble.md R192 to R196): a row of the format table writes its policy's pixel at every column,
and each policy's pixel follows from which bytes of the trimmed buffers exist. -/

namespace Sys2Proof.Machine

/-! ## One row -/

/-- In the real pass a row of the format table answers, and each column of row Y then holds what its policy gives (R196). -/
theorem formatRow_assembles {s : State} {d : Dims} (hp : s.phase = .decode) (hd : s.dims = some d) (f : PixelFormat)
    (prepare : State → State) (px : State → Nat → Option Rgb) :
    ∃ t, outcomeOf (formatRow f prepare px s) = .next t ∧
      ∀ x, x < d.cols.toNat → t.pix.get (pixKey s.y.toNat x) = some (px s x) :=
  ⟨_, outcomeOf_next.2 (formatRow_ok.2 (.inr ⟨hp, d, hd, rfl⟩)), fun _ hx => putRow_get_row _ _ hx _⟩

/-! ## A byte of a trimmed buffer -/

section
variable {s : State} {p x : Nat} {len : BitVec 16} (hl : s.lineLen.get p = some len)
include hl

/-- Below LINE_LEN a buffer's byte is what LINE holds. -/
theorem lineByte_of_lt (hx : x < len.toNat) : lineByte s p x = s.line.get (lineKey p x) := by
  simp only [lineByte, hl, if_pos hx]

/-- From LINE_LEN on a buffer has no byte. -/
theorem lineByte_of_le (hx : len.toNat ≤ x) : lineByte s p x = none := by
  simp only [lineByte, hl, if_neg (Nat.not_lt.2 hx)]

end

/-! ## The four pixels -/

theorem pixelRgb24_of_bytes {s : State} {x : Nat} {r g b : Byte} (hr : lineByte s 0 x = some r) (hg : lineByte s 1 x = some g)
    (hb : lineByte s 2 x = some b) : pixelRgb24 s x = some ⟨r, g, b⟩ := by
  simp only [pixelRgb24, hr, hg, hb]

/-- One missing byte makes the whole pixel absent. -/
theorem pixelRgb24_of_missing {s : State} {x : Nat}
    (h : lineByte s 0 x = none ∨ lineByte s 1 x = none ∨ lineByte s 2 x = none) : pixelRgb24 s x = none := by
  unfold pixelRgb24
  split
  · next hr hg hb => simp [hr, hg, hb] at h
  · rfl

theorem pixelLuma_of_byte {s : State} {x : Nat} {v : Byte} (hv : lineByte s 0 x = some v) :
    pixelLuma s x = (s.luma[v.toNat]?).map grey := by
  simp only [pixelLuma, hv]

theorem pixelLuma_of_missing {s : State} {x : Nat} (h : lineByte s 0 x = none) : pixelLuma s x = none := by
  simp only [pixelLuma, h]

theorem pixelGrey_of_byte {s : State} {x : Nat} {v : Byte} (hv : lineByte s 0 x = some v) :
    pixelGrey s x = some ⟨v, v, v⟩ := by
  rw [pixelGrey, hv]; rfl

theorem pixelGrey_of_missing {s : State} {x : Nat} (h : lineByte s 0 x = none) : pixelGrey s x = none := by
  rw [pixelGrey, h]; rfl

theorem pixelFallback_of_noPlane {np : Byte} (h : np.toNat = 0) (s : State) (x : Nat) : pixelFallback np s x = none :=
  if_neg (by omega)

theorem pixelFallback_of_plane {np : Byte} (h : 1 ≤ np.toNat) (s : State) (x : Nat) : pixelFallback np s x = pixelGrey s x :=
  if_pos h

/-! ## Three planes -/

/-- Settles O23: the row is `pixelRgb24` of each column, whose three bytes exist exactly below the three lengths. -/
theorem rgb24RowFromThreePlanes : Obligations.Rgb24RowFromThreePlanes := by
  intro palPresent s d l0 l1 l2 hp hd h0 h1 h2
  obtain ⟨t, ht, hrow⟩ := formatRow_assembles hp hd .rgb24 id pixelRgb24
  refine ⟨t, ht, fun x hx => ⟨fun r g b hx0 hx1 hx2 hr hg hb => ?_, fun hshort => ?_⟩⟩
  · rw [hrow x hx, pixelRgb24_of_bytes ((lineByte_of_lt h0 hx0).trans hr) ((lineByte_of_lt h1 hx1).trans hg)
      ((lineByte_of_lt h2 hx2).trans hb)]
  · have hmissing := hshort.imp (lineByte_of_le h0) (Or.imp (lineByte_of_le h1) (lineByte_of_le h2))
    rw [hrow x hx, pixelRgb24_of_missing hmissing]

/-! ## Plane 0 as grey -/

/-- Settles O24: a byte of plane 0 is below 256, so it names an entry of LUMA, and the pixel is that entry as grey. -/
theorem indexedRowThroughLuma : Obligations.IndexedRowThroughLuma := by
  intro s d l0 hp hd h0 hluma
  obtain ⟨t, ht, hrow⟩ := formatRow_assembles hp hd .indexedViaLuma buildLuma pixelLuma
  refine ⟨t, ht, fun x hx => ⟨fun v hx0 hv => ?_, fun hx0 => ?_⟩⟩
  · have hentry : s.luma[v.toNat]? = some (s.luma[v.toNat]'(hluma ▸ v.isLt)) := List.getElem?_eq_getElem _
    refine ⟨_, hentry, ?_⟩
    rw [hrow x hx, pixelLuma_of_byte ((lineByte_of_lt h0 hx0).trans hv), hentry]
    rfl
  · rw [hrow x hx, pixelLuma_of_missing (lineByte_of_le h0 hx0)]

/-- Settles O25: the row is `pixelGrey` of each column, whose byte exists exactly below LINE_LEN[0]. -/
theorem gray8RowFromPlaneZero : Obligations.Gray8RowFromPlaneZero := by
  intro s d l0 hp hd h0
  obtain ⟨t, ht, hrow⟩ := formatRow_assembles hp hd .gray8 id pixelGrey
  refine ⟨t, ht, fun x hx => ⟨fun v hx0 hv => ?_, fun hx0 => ?_⟩⟩
  · rw [hrow x hx, pixelGrey_of_byte ((lineByte_of_lt h0 hx0).trans hv)]
  · rw [hrow x hx, pixelGrey_of_missing (lineByte_of_le h0 hx0)]

/-- Settles O26: with a plane the fallback's pixel is `pixelGrey`, with none it is absent; the depth has no part in it. -/
theorem fallbackRowIsBestEffort : Obligations.FallbackRowIsBestEffort := by
  intro palPresent np bpp s d hp hd
  obtain ⟨t, ht, hrow⟩ := formatRow_assembles hp hd .fallback id (pixelFallback np)
  refine ⟨t, ht, fun x hx => ⟨fun hnone => ?_, fun l0 hplane h0 => ⟨fun v hx0 hv => ?_, fun hx0 => ?_⟩⟩⟩
  · rw [hrow x hx, pixelFallback_of_noPlane hnone]
  · rw [hrow x hx, pixelFallback_of_plane hplane, pixelGrey_of_byte ((lineByte_of_lt h0 hx0).trans hv)]
  · rw [hrow x hx, pixelFallback_of_plane hplane, pixelGrey_of_missing (lineByte_of_le h0 hx0)]

end Sys2Proof.Machine
end

section
/-! The decoder and the encoder undo each other (30_encoding.md R92 to R102): what each place's codes decode to, said by their numbers,
and the round trips that follow. -/

namespace Sys2Proof

/-! ## Units -/

theorem decodeUnit_run {b : Byte} (hb : 192 ≤ b.toNat) (v : Byte) (rest : List Byte) :
    decodeUnit (b :: v :: rest) = .ok (.run (runCount b) v, rest) := by
  simp [decodeUnit, isRunHeader_eq, hb]

theorem decodeUnit_truncated {b : Byte} (hb : 192 ≤ b.toNat) : decodeUnit [b] = .error .truncatedRun := by
  simp [decodeUnit, isRunHeader_eq, hb]

theorem decodeUnit_literalLow {b : Byte} (hb : b.toNat < 128) (rest : List Byte) :
    decodeUnit (b :: rest) = .ok (.literalLow b, rest) := by
  simp [decodeUnit, isRunHeader_eq, literalRow_eq, hb, show ¬192 ≤ b.toNat by omega]

theorem decodeUnit_literalHigh {b : Byte} (h128 : 128 ≤ b.toNat) (h192 : b.toNat < 192) (rest : List Byte) :
    decodeUnit (b :: rest) = .ok (.literalHigh b, rest) := by
  simp [decodeUnit, isRunHeader_eq, literalRow_eq, Nat.not_le.2 h192, Nat.not_lt.2 h128]

theorem runHeader_le (c : BitVec 6) : 192 ≤ (0b11#2 ++ c : BitVec 8).toNat :=
  of_decide_eq_true ((isRunHeader_eq _).symm.trans (isRunHeader_run c))

theorem runHeader_runCount {b : Byte} (hb : 192 ≤ b.toNat) : (0b11#2 ++ runCount b : BitVec 8) = b :=
  run_runCount b ((isRunHeader_eq b).trans (decide_eq_true hb))

/-- The count is the first byte less 192 (30_encoding.md R94). -/
theorem runCount_toNat {b : Byte} (hb : 192 ≤ b.toNat) : (runCount b).toNat = b.toNat - 192 := by
  have hlt := b.isLt
  rw [runCount, BitVec.extractLsb'_toNat, Nat.shiftRight_zero]
  omega

/-! ## Keys -/

/-- The format table by the numbers of its three fields (30_encoding.md R98). -/
theorem decodeKey_formatKey (p : Bool) (np bpp : Byte) :
    decodeKey (formatKey p np bpp) =
      if np.toNat = 3 ∧ bpp.toNat = 8 then .fmtRgb24 p
      else if np.toNat = 1 ∧ bpp.toNat = 8 ∧ p = true then .fmtIndexedViaLuma
      else if np.toNat = 1 ∧ bpp.toNat = 8 then .fmtGray8
      else .fmtFallback p np bpp := by
  have hnp := np.isLt
  have hbpp := bpp.isLt
  have hkey := formatKey_toNat p np bpp
  have hrgb : (formatKey p np bpp &&& 0x0FFFF#17 == 0x00308#17) = decide (np.toNat = 3 ∧ bpp.toNat = 8) := by
    rw [Bool.eq_iff_iff, beq_iff_eq, decide_eq_true_iff, BitVec.toNat_eq, key_and_low, hkey, BitVec.toNat_ofNat]
    omega
  have hindexed : (formatKey p np bpp &&& 0x1FFFF#17 == 0x10108#17) =
      decide (np.toNat = 1 ∧ bpp.toNat = 8 ∧ p = true) := by
    rw [Bool.eq_iff_iff, beq_iff_eq, decide_eq_true_iff, BitVec.toNat_eq, key_and_all, hkey, BitVec.toNat_ofNat]
    cases p <;> simp <;> omega
  have hgray : (formatKey p np bpp &&& 0x1FFFF#17 == 0x00108#17) =
      decide (np.toNat = 1 ∧ bpp.toNat = 8 ∧ p = false) := by
    rw [Bool.eq_iff_iff, beq_iff_eq, decide_eq_true_iff, BitVec.toNat_eq, key_and_all, hkey, BitVec.toNat_ofNat]
    cases p <;> simp <;> omega
  rw [decodeKey, hrgb, hindexed, hgray, formatKey_palPresent, formatKey_numPlanes, formatKey_bpp]
  by_cases hone : np.toNat = 1 ∧ bpp.toNat = 8
  · cases p <;> simp [hone]
  · simp [← and_assoc, hone]

/-- The plane counts and depths of the three first rows, as numbers. -/
theorem isRealFormat_iff {np bpp : Byte} :
    isRealFormat np bpp = true ↔ bpp.toNat = 8 ∧ (np.toNat = 3 ∨ np.toNat = 1) := by
  simp only [isRealFormat, Bool.and_eq_true, Bool.or_eq_true, beq_iff_eq, BitVec.toNat_eq]
  exact Iff.rfl

/-! ## Round trips -/

/-- A key read and written again. -/
theorem encode_decodeKey (k : BitVec 17) : (decodeKey k).wf = true ∧ encode (decodeKey k) = .key k := by
  rw [← formatKey_eta k]
  generalize k.getLsbD 16 = p
  generalize k.extractLsb' 8 8 = np
  generalize k.extractLsb' 0 8 = bpp
  have eight : bpp.toNat = 8 → bpp = 8 := fun h => BitVec.eq_of_toNat_eq h
  have three : np.toNat = 3 → np = 3 := fun h => BitVec.eq_of_toNat_eq h
  have one : np.toNat = 1 → np = 1 := fun h => BitVec.eq_of_toNat_eq h
  rw [decodeKey_formatKey]
  split
  case isTrue h => rw [three h.1, eight h.2]; exact ⟨rfl, rfl⟩
  case isFalse hrgb =>
    split
    case isTrue h => rw [one h.1, eight h.2.1, h.2.2]; exact ⟨rfl, rfl⟩
    case isFalse hindexed =>
      split
      case isTrue h =>
        have hp : p = false := Bool.eq_false_iff.2 fun hp => hindexed ⟨h.1, h.2, hp⟩
        rw [one h.1, eight h.2, hp]
        exact ⟨rfl, rfl⟩
      case isFalse hgray =>
        have hreal : isRealFormat np bpp = false :=
          Bool.eq_false_iff.2 fun h => by
            obtain ⟨hb, hn | hn⟩ := isRealFormat_iff.1 h
            · exact hrgb ⟨hn, hb⟩
            · exact hgray ⟨hn, hb⟩
        exact ⟨by rw [Instr.wf, hreal]; rfl, rfl⟩

/-- The two command bits of a RESET word (30_encoding.md R99). -/
def resetBits (st : Bool) : BitVec 2 := 0b1#1 ++ BitVec.ofBool st

theorem resetBits_toNat (st : Bool) : (resetBits st).toNat = 2 + st.toNat := by cases st <;> rfl

theorem encode_reset (st : Bool) (ig : BitVec 30) : encode (.reset st ig) = .ctrl (ig ++ resetBits st) := by
  have assoc := BitVec.append_assoc (x₁ := ig) (x₂ := 0b1#1) (x₃ := BitVec.ofBool st)
  exact congrArg Code.ctrl assoc

/-- A CTRL word's ignored bits and command bits put together again. -/
theorem ctrlWord_eta {w : Word} {lo : BitVec 2} (hlo : lo.toNat = w.toNat % 4) : (w.extractLsb' 2 30 ++ lo : BitVec 32) = w := by
  apply BitVec.eq_of_toNat_eq
  rw [ctrlWord_toNat, ctrlWord_ignored, hlo]
  omega

theorem ctrlWord_extract (ig : BitVec 30) (lo : BitVec 2) : (ig ++ lo : BitVec 32).extractLsb' 2 30 = ig := by
  have hlo := lo.isLt
  apply BitVec.eq_of_toNat_eq
  rw [ctrlWord_ignored, ctrlWord_toNat]
  omega

/-- A CTRL word read and written again. -/
theorem encode_decodeCtrl (w : Word) : (decodeCtrl w).wf = true ∧ encode (decodeCtrl w) = .ctrl w := by
  rw [decodeCtrl_eq]
  split
  case isTrue hstart => exact ⟨rfl, congrArg Code.ctrl (ctrlWord_eta hstart.symm)⟩
  case isFalse hstart =>
    split
    case isTrue hreset =>
      refine ⟨rfl, (encode_reset ..).trans (congrArg Code.ctrl (ctrlWord_eta ?_))⟩
      rw [resetBits_toNat, ctrlWord_start]
      by_cases hodd : w.toNat % 2 = 1
      · rw [decide_eq_true hodd, Bool.toNat_true]; omega
      · rw [decide_eq_false hodd, Bool.toNat_false]; omega
    case isFalse hreset => exact ⟨rfl, congrArg Code.ctrl (ctrlWord_eta (show 0 = _ by omega))⟩

/-- What a unit's bytes decode to is well formed and encodes to them. -/
theorem encode_decodeUnit {bytes rest : List Byte} {i : Instr} (h : decodeUnit bytes = .ok (i, rest)) :
    i.wf = true ∧ ∃ code, encode i = .unit code ∧ bytes = code ++ rest := by
  cases bytes with
  | nil => cases h
  | cons b bs =>
    by_cases hrun : 192 ≤ b.toNat
    · cases bs with
      | nil => rw [decodeUnit_truncated hrun] at h; cases h
      | cons v bs =>
        rw [decodeUnit_run hrun] at h
        cases h
        exact ⟨rfl, _, rfl, by rw [runHeader_runCount hrun]; rfl⟩
    · by_cases hlow : b.toNat < 128
      · rw [decodeUnit_literalLow hlow] at h
        cases h
        exact ⟨decide_eq_true hlow, _, rfl, rfl⟩
      · rw [decodeUnit_literalHigh (by omega) (by omega)] at h
        cases h
        exact ⟨by simp only [Instr.wf, Bool.and_eq_true, decide_eq_true_eq]; omega, _, rfl, rfl⟩

theorem decode_unit_ok {bytes : List Byte} {i : Instr} :
    decode (.unit bytes) = .ok i ↔ decodeUnit bytes = .ok (i, []) := by
  rcases hd : decodeUnit bytes with r | ⟨j, _ | ⟨b, bs⟩⟩ <;> simp [decode, hd]

/-- Settles O10: each row's code meets its own row's test and no test before it, and its operand fields read back. -/
theorem decodeInvertsEncode : Obligations.DecodeInvertsEncode := by
  intro i hwf
  cases i with
  | literalLow v => exact decode_unit_ok.2 (decodeUnit_literalLow (of_decide_eq_true hwf) [])
  | literalHigh v =>
    simp only [Instr.wf, Bool.and_eq_true, decide_eq_true_eq] at hwf
    exact decode_unit_ok.2 (decodeUnit_literalHigh hwf.1 hwf.2 [])
  | run c v =>
    refine decode_unit_ok.2 ((decodeUnit_run (runHeader_le c) v []).trans ?_)
    rw [runCount_run]
  | fmtRgb24 p => exact congrArg Except.ok (decodeKey_formatKey p 3 8)
  | fmtIndexedViaLuma => exact congrArg Except.ok (decodeKey_formatKey true 1 8)
  | fmtGray8 => exact congrArg Except.ok (decodeKey_formatKey false 1 8)
  | fmtFallback p np bpp =>
    have hreal : ¬(bpp.toNat = 8 ∧ (np.toNat = 3 ∨ np.toNat = 1)) := fun h => by
      rw [Instr.wf, isRealFormat_iff.2 h] at hwf
      cases hwf
    refine congrArg Except.ok ((decodeKey_formatKey p np bpp).trans ?_)
    rw [if_neg (by omega), if_neg (by omega), if_neg (by omega)]
  | start ig =>
    have hbits : (ig ++ 0b01#2 : BitVec 32).toNat % 4 = 1 := by rw [ctrlWord_toNat, Nat.mul_add_mod]; rfl
    refine congrArg Except.ok ((decodeCtrl_eq _).trans ?_)
    rw [if_pos hbits, ctrlWord_extract]
  | reset st ig =>
    have hbits : (ig ++ resetBits st : BitVec 32).toNat % 4 = 2 + st.toNat := by
      rw [ctrlWord_toNat, resetBits_toNat, Nat.mul_add_mod]; cases st <;> rfl
    have hst : (ig ++ resetBits st : BitVec 32).getLsbD 0 = st := by
      rw [ctrlWord_start, ctrlWord_toNat, resetBits_toNat]; cases st <;> simp <;> omega
    rw [encode_reset]
    refine congrArg Except.ok ((decodeCtrl_eq _).trans ?_)
    rw [if_neg (by omega), if_pos (by omega), hst, ctrlWord_extract]
  | ctrlNop ig =>
    have hbits : (ig ++ 0b00#2 : BitVec 32).toNat % 4 = 0 := by rw [ctrlWord_toNat, Nat.mul_add_mod]; rfl
    refine congrArg Except.ok ((decodeCtrl_eq _).trans ?_)
    rw [if_neg (by omega), if_neg (by omega), ctrlWord_extract]

/-- Settles O11: in each of the three places what is decoded is well formed and encodes to the same bits. -/
theorem encodeInvertsDecode : Obligations.EncodeInvertsDecode := by
  intro c i h
  cases c with
  | unit bytes =>
    obtain ⟨hwf, code, hcode, hbytes⟩ := encode_decodeUnit (decode_unit_ok.1 h)
    rw [List.append_nil] at hbytes
    exact ⟨hwf, hbytes ▸ hcode⟩
  | key k => cases h; exact encode_decodeKey k
  | ctrl w => cases h; exact encode_decodeCtrl w

/-- Settles O12: the run header's value byte is not looked at, and a LITERAL's row is told by its byte alone. -/
theorem firstByteTellsTheUnit : Obligations.FirstByteTellsTheUnit := by
  intro b v rest
  refine ⟨fun hrun => ⟨_, runCount_toNat hrun, decodeUnit_run hrun v rest⟩, fun hlit => ?_⟩
  by_cases hlow : b.toNat < 128
  · exact ⟨_, .inl rfl, decodeUnit_literalLow hlow _⟩
  · exact ⟨_, .inr rfl, decodeUnit_literalHigh (by omega) hlit _⟩

/-- Settles O13, by the table in numbers. -/
theorem keySelectsItsRow : Obligations.KeySelectsItsRow := decodeKey_formatKey

/-- Settles O14: twelve fixed codes, each run through the decoder. -/
theorem specWordsDecode : Obligations.SpecWordsDecode := by
  unfold Obligations.SpecWordsDecode
  decide

end Sys2Proof
end

section
/-! What one step of the block leaves, every instruction's effect written out: one inversion for all invariants
(40_sequencer_host_commands.md R122, R126), and the step as an equation where the loops of a pass ask for it. -/

namespace Sys2Proof.Machine

/-! ## Units -/

/-- How far a unit moves CURSOR (43_rle_decode.md R171, R172). -/
def unitBytes : Instr → Nat
  | .run _ _ => 2
  | _ => 1

theorem unitBytes_eq (i : Instr) : unitBytes i = 1 ∨ unitBytes i = 2 := by
  cases i with
  | run c v => exact .inr rfl
  | _ => exact .inl rfl

/-- The byte a unit appends. -/
def unitValue : Instr → Byte
  | .literalLow v => v
  | .literalHigh v => v
  | .run _ v => v
  | _ => 0

/-- The state after a unit. -/
def appended (i : Instr) (s : State) : State := appendUnit (unitBytes i) (unitCopies i s) (unitValue i) s

/-- A unit that answers a next state appends its copies. -/
theorem exec_unit_eq {i : Instr} {s t : State} (hi : isUnitInstr i = true) (h : exec i s = .next t) : t = appended i s := by
  cases i with
  | literalLow v => cases h; rfl
  | literalHigh v => cases h; rfl
  | run c v =>
    simp only [exec, execRun, outcomeOf_next, runUnit, bind_ok, pure_ok, header_ok] at h
    obtain ⟨hd, hh, rfl⟩ := h
    simp only [appended, unitBytes, unitCopies, unitValue, hh]
  | _ => cases hi

/-- Every unit runs wherever there is a header. -/
theorem exec_unit_appends {i : Instr} {s : State} {h : Header} (hi : isUnitInstr i = true) (hh : s.hdr = some h) :
    exec i s = .next (appended i s) := by
  cases i with
  | literalLow v => rfl
  | literalHigh v => rfl
  | run c v => rw [exec_run hh]; simp only [appended, unitBytes, unitCopies, unitValue, hh]
  | _ => cases hi

/-- The decoder reads units and nothing else from the stream. -/
theorem isUnitInstr_decodeUnit {bytes rest : List Byte} {i : Instr} (h : decodeUnit bytes = .ok (i, rest)) :
    isUnitInstr i = true := by
  unfold decodeUnit at h
  split at h
  · cases h
  · split at h
    · split at h <;> cases h
      rfl
    · split at h <;> cases h <;> rfl

/-- A fetched unit stays within the budget and within the file. -/
theorem unit_fits {s : State} {h : Header} {bytes rest : List Byte} {i : Instr} (hh : s.hdr = some h)
    (hu : unitDue h s = true) (hf : fetchUnit s = .ok bytes) (hd : decodeUnit bytes = .ok (i, rest)) :
    s.n.toNat + unitCopies i s ≤ h.bytesPerLine.toNat ∧ s.cursor + unitBytes i ≤ s.fileLen := by
  obtain ⟨hn, hc⟩ := unitDue_iff.1 hu
  cases i with
  | literalLow v => exact ⟨hn, hc⟩
  | literalHigh v => exact ⟨hn, hc⟩
  | run c v =>
    have hclip := runCopies_le c h.bytesPerLine s.n
    refine ⟨by simp only [unitCopies, hh]; omega, ?_⟩
    rcases fetchUnit_ok hf with ⟨b, -, rfl, -⟩ | ⟨b, v, -, -, -, -, hnext⟩
    · simp only [decodeUnit] at hd
      split at hd
      · cases hd
      · split at hd <;> cases hd
    · exact hnext
  | _ => cases isUnitInstr_decodeUnit hd

/-! ## Rows of the format table -/

/-- FORMAT by the four ordered tests (44_pixel_assemble.md R190). -/
def chosenFormat (palPresent : Bool) (h : Header) : PixelFormat :=
  if h.numPlanes.toNat = 3 ∧ h.bpp.toNat = 8 then .rgb24
  else if h.numPlanes.toNat = 1 ∧ h.bpp.toNat = 8 ∧ palPresent = true then .indexedViaLuma
  else if h.numPlanes.toNat = 1 ∧ h.bpp.toNat = 8 then .gray8
  else .fallback

/-- What LUMA_BUILD makes ready for a format. -/
def prepared (f : PixelFormat) (s : State) : State := if f = .indexedViaLuma then buildLuma s else s

/-- The state after the selection of a format. -/
def formatSelected (f : PixelFormat) (s : State) : State := selectFormat f (prepared f s)

/-- The selection writes FORMAT and, for IndexedViaLuma, LUMA; the real pass is next. -/
theorem formatSelected_eq (f : PixelFormat) (s : State) :
    formatSelected f s = { s with
      status := { s.status with format := f }
      luma := if f = .indexedViaLuma then s.pal.map (lumaOf s.params.lumaTie) else s.luma
      phase := .decode
      point := .enter } := by
  unfold formatSelected prepared
  split <;> rfl

/-- The policy of a row of the format table. -/
def rowPixel : Instr → State → Nat → Option Rgb
  | .fmtRgb24 _ => pixelRgb24
  | .fmtIndexedViaLuma => pixelLuma
  | .fmtGray8 => pixelGrey
  | .fmtFallback _ np _ => pixelFallback np
  | _ => fun _ _ => none

/-- The state after a row of the real pass. -/
def rowAssembled (i : Instr) (d : Dims) (s : State) : State :=
  nextRow { s with pix := putRow s.y.toNat (rowPixel i s) d.cols.toNat s.pix }

theorem exec_selects {i : Instr} {f : PixelFormat} {s : State} (hi : formatOf i = some f) (hp : s.phase ≠ .decode) :
    exec i s = .next (formatSelected f s) := by
  have row : ∀ prepare px, outcomeOf (formatRow f prepare px s) = .next (selectFormat f (prepare s)) := fun prepare px =>
    outcomeOf_next.2 (formatRow_ok.2 (.inl ⟨hp, rfl⟩))
  cases i <;> cases hi <;> exact row _ _

theorem exec_assembles {i : Instr} {s : State} {d : Dims} (hi : isFormatInstr i = true) (hp : s.phase = .decode)
    (hd : s.dims = some d) : exec i s = .next (rowAssembled i d s) := by
  have row : ∀ f prepare px, outcomeOf (formatRow f prepare px s) =
      .next (nextRow { s with pix := putRow s.y.toNat (px s) d.cols.toNat s.pix }) := fun f prepare px =>
    outcomeOf_next.2 (formatRow_ok.2 (.inr ⟨hp, d, hd, rfl⟩))
  cases i with
  | fmtRgb24 p => exact row ..
  | fmtIndexedViaLuma => exact row ..
  | fmtGray8 => exact row ..
  | fmtFallback p np bpp => exact row ..
  | _ => cases hi

theorem formatOf_stateKey (h : Header) (s : State) :
    formatOf (decodeKey (stateKey h s)) = some (chosenFormat s.status.palPresent h) := by
  rw [stateKey, decodeKey_formatKey, chosenFormat]
  split_ifs <;> rfl

theorem formatOf_formatInstr (h : Header) (s : State) : formatOf (formatInstr h s) = some s.status.format := by
  unfold formatInstr
  cases s.status.format <;> rfl

/-! ## The loops of a pass -/

/-- One step of the loops of a pass: a unit, the truncated RUN, the end of a call or of a scanline. -/
inductive LoopStep (h : Header) (d : Dims) (s : State) : State → Prop where
  | unit (i : Instr) : InCall h d s → isUnitInstr i = true → s.n.toNat + unitCopies i s ≤ h.bytesPerLine.toNat →
      s.cursor + unitBytes i ≤ s.fileLen → LoopStep h d s (appended i s)
  | truncated : InCall h d s → s.n.toNat < h.bytesPerLine.toNat → s.cursor + 1 = s.fileLen → LoopStep h d s (truncateRun s)
  | callEnd : InCall h d s → unitDue h s = false → LoopStep h d s (endCall h d s)
  | rowPassed : s.y.toNat < d.rows.toNat → h.numPlanes.toNat ≤ s.p.toNat → s.phase ≠ .decode → LoopStep h d s (nextRow s)
  | rowBuilt : s.y.toNat < d.rows.toNat → h.numPlanes.toNat ≤ s.p.toNat → s.phase = .decode →
      LoopStep h d s (rowAssembled (formatInstr h s) d s)

/-- The loops write LINE, LINE_LEN, PIX, TRUNC, CURSOR and their own registers, and nothing else. -/
theorem LoopStep.frame {h : Header} {d : Dims} {s t : State} (hl : LoopStep h d s t) :
    t = { s with
      status := { s.status with trunc := t.status.trunc }
      cursor := t.cursor, line := t.line, lineLen := t.lineLen, pix := t.pix, y := t.y, p := t.p, n := t.n } := by
  cases hl with
  | callEnd => rw [endCall_eta]
  | _ => rfl

theorem storing_iff {s : State} : storing s = true ↔ s.phase = .decode := beq_iff_eq

theorem storing_false {s : State} : storing s = false ↔ s.phase ≠ .decode := beq_eq_false_iff_ne

/-! ## The block's steps -/

/-- What a busy block's step leaves. -/
inductive Advance (s : State) : State → Prop where
  | init : s.phase = .init → Advance s (initDecode s)
  | tooShort : s.phase = .hdrParse → s.fileLen < 128 → Advance s (raiseError .invalidHeader s)
  | parsed (h : Header) : s.phase = .hdrParse → 128 ≤ s.fileLen → readHeader s = .ok h →
      Advance s (goPhase .validate { s with hdr := some h })
  | accepted : s.phase = .validate → s.hdr.isSome = true →
      Advance s (goPhase .dims { s with status := { s.status with hdrValid := true } })
  | rejected : s.phase = .validate → Advance s (raiseError .notAPcxFile s)
  | sized (h : Header) : s.phase = .dims → s.hdr = some h → Advance s (recordDims h s)
  | dryRun : s.phase = .palExtract → s.point = .enter → Advance s (startPass s)
  | noDryRun (h : Header) : s.phase = .palExtract → s.point = .enter → s.hdr = some h → versionGate h = false →
      Advance s { s with point := .search }
  | searched (h : Header) (found : Option (List Rgb × PalSrc)) : s.phase = .palExtract → s.point = .search →
      s.hdr = some h → findPalette h s = .ok found → Advance s (recordPalette found s)
  | selected (h : Header) : s.phase = .formatSelect → s.hdr = some h →
      Advance s (formatSelected (chosenFormat s.status.palPresent h) s)
  | realPass : s.phase = .decode → s.point = .enter → Advance s (startPass s)
  | loop (h : Header) (d : Dims) (t : State) : InPass h d s → LoopStep h d s t → Advance s t
  | dryRunEnd (h : Header) (d : Dims) : InPass h d s → d.rows.toNat ≤ s.y.toNat → s.phase = .palExtract →
      Advance s (closeDryRun s)
  | realPassEnd (h : Header) (d : Dims) : InPass h d s → d.rows.toNat ≤ s.y.toNat → s.phase = .decode → s.point ≠ .enter →
      Advance s (goPhase .finish s)
  | finished : s.phase = .finish → Advance s (finish s)

/-- The block rests outside BUSY, and in BUSY it advances. -/
theorem BlockStep.advance {s t : State} (hb : BlockStep s t) :
    (isBusy s = false ∧ t = s) ∨ (isBusy s = true ∧ Advance s t) := by
  have loop : ∀ {h d u}, InPass h d s → LoopStep h d s u → isBusy s = true ∧ Advance s u :=
    fun hp hl => ⟨hp.busy, .loop _ _ _ hp hl⟩
  cases hb with
  | rest hb => exact .inl ⟨hb, rfl⟩
  | init hb hph => exact .inr ⟨hb, .init hph⟩
  | tooShort hb hph hl => exact .inr ⟨hb, .tooShort hph hl⟩
  | parsed h hb hph hl hr => exact .inr ⟨hb, .parsed h hph hl hr⟩
  | accepted h hb hph hh hm => exact .inr ⟨hb, .accepted hph (hh ▸ rfl)⟩
  | rejected h hb hph hh hm => exact .inr ⟨hb, .rejected hph⟩
  | sized h hb hph hh hc => exact .inr ⟨hb, .sized h hph hh⟩
  | dryRun h hb hph hpt hh hv => exact .inr ⟨hb, .dryRun hph hpt⟩
  | noDryRun h hb hph hpt hh hv => exact .inr ⟨hb, .noDryRun h hph hpt hh hv⟩
  | searched h found hb hph hpt hh hf => exact .inr ⟨hb, .searched h found hph hpt hh hf⟩
  | selected h t hb hph hh he =>
    rw [exec_selects (formatOf_stateKey h s) (by rw [hph]; decide)] at he
    cases he
    exact .inr ⟨hb, .selected h hph hh⟩
  | realPass hb hph hpt => exact .inr ⟨hb, .realPass hph hpt⟩
  | unit h d bytes rest i t hp hc hu hf hd he =>
    obtain ⟨hn, hcur⟩ := unit_fits hp.hdr hu hf hd
    have hi := isUnitInstr_decodeUnit hd
    rw [exec_unit_eq hi he]
    exact .inr (loop hp (.unit i hc hi hn hcur))
  | truncated h d bytes r hp hc hu hf hd =>
    obtain ⟨hn, hcur⟩ := unitDue_iff.1 hu
    exact .inr (loop hp (.truncated hc hn (truncated_at_end hcur hf hd)))
  | callEnd h d hp hc hu => exact .inr (loop hp (.callEnd hc hu))
  | rowPassed h d hp hy hpl hs => exact .inr (loop hp (.rowPassed hy hpl (storing_false.1 hs)))
  | rowBuilt h d t hp hy hpl hs he =>
    rw [exec_assembles (isFormatInstr_formatInstr h s) (storing_iff.1 hs) hp.dims] at he
    cases he
    exact .inr (loop hp (.rowBuilt hy hpl (storing_iff.1 hs)))
  | passEnd h d hp hy =>
    rcases hp.where_ with ⟨hph, hpt⟩ | ⟨hph, hpt⟩
    · rw [endPass, if_neg (by rw [storing_iff, hph]; decide)]
      exact .inr ⟨hp.busy, .dryRunEnd h d hp hy hph⟩
    · rw [endPass, if_pos (storing_iff.2 hph)]
      exact .inr ⟨hp.busy, .realPassEnd h d hp hy hph hpt⟩
  | finished hb hph => exact .inr ⟨hb, .finished hph⟩

/-- In a pass the block steps through its loops or ends the pass: every other advance is made at another place of the sequence. -/
theorem InPass.advance {h : Header} {d : Dims} {s t : State} (hp : InPass h d s) (ha : Advance s t) :
    LoopStep h d s t ∨ (d.rows.toNat ≤ s.y.toNat ∧ t = endPass s) := by
  have hw := hp.where_
  cases ha with
  | loop h' d' t hp' hl =>
    obtain rfl : h' = h := Option.some.inj (hp'.hdr.symm.trans hp.hdr)
    obtain rfl : d' = d := Option.some.inj (hp'.dims.symm.trans hp.dims)
    exact .inl hl
  | dryRunEnd h' d' hp' hy hph =>
    obtain rfl : d' = d := Option.some.inj (hp'.dims.symm.trans hp.dims)
    exact .inr ⟨hy, (if_neg (by rw [storing_iff, hph]; decide)).symm⟩
  | realPassEnd h' d' hp' hy hph =>
    obtain rfl : d' = d := Option.some.inj (hp'.dims.symm.trans hp.dims)
    exact .inr ⟨hy, (if_pos (storing_iff.2 hph)).symm⟩
  | _ => simp_all

theorem endPass_cursor (s : State) : (endPass s).cursor = s.cursor := by
  unfold endPass; split <;> rfl

/-- With no host move pending a busy block's step is an advance. -/
theorem step_advance {s t : State} (hq : s.host = []) (hb : isBusy s = true) (h : step s = .next t) : Advance s t := by
  rw [step_block hq] at h
  rcases (planBlock_next h).advance with ⟨hb', -⟩ | ⟨-, ha⟩
  · rw [hb] at hb'; cases hb'
  · exact ha

/-- An invariant that an advance and every host move keep is kept by every step. -/
theorem step_keeps {Inv : State → Prop} (hq : ∀ s q, Inv s → Inv { s with host := q })
    (ha : ∀ s t, Inv s → isBusy s = true → Advance s t → Inv t) (hh : ∀ s t, Inv s → HostStep s t → Inv t)
    {s t : State} (hi : Inv s) (h : step s = .next t) : Inv t := by
  refine step_invariant hq (fun s t hi hb => ?_) hh hi h
  rcases hb.advance with ⟨-, rfl⟩ | ⟨hb, ha'⟩
  · exact hi
  · exact ha s t hi hb ha'

/-- No step of the block writes the host's memory, FILE_LEN, the parameters or the host's own registers. -/
theorem Advance.frame {s t : State} (ha : Advance s t) :
    t.params = s.params ∧ t.fileLen = s.fileLen ∧ t.file = s.file ∧ t.host = s.host ∧ t.rdata = s.rdata := by
  cases ha with
  | searched h found => cases found <;> exact ⟨rfl, rfl, rfl, rfl, rfl⟩
  | selected h => rw [formatSelected_eq]; exact ⟨rfl, rfl, rfl, rfl, rfl⟩
  | loop h d t hp hl => rw [hl.frame]; exact ⟨rfl, rfl, rfl, rfl, rfl⟩
  | _ => exact ⟨rfl, rfl, rfl, rfl, rfl⟩

end Sys2Proof.Machine
end

section
/-! What every step keeps: the canonical memories, the bounds of the offsets and the loop registers (20_memory.md section 1,
10_state.md sections 3 and 4, 43_rle_decode.md R170). -/

namespace Sys2Proof.Machine

/-! ## Canonical memories -/

theorem endCall_lineLen_wf {s : State} (hw : s.lineLen.wf) (h : Header) (d : Dims) : (endCall h d s).lineLen.wf := by
  cases hs : storing s
  · rw [endCall_dry hs]; exact hw
  · rw [endCall_real hs]; exact Memory.set_wf (Memory.set_wf hw _ _) _ _

theorem LoopStep.keeps_canonical {h : Header} {d : Dims} {s t : State} (hl : LoopStep h d s t) (hc : Canonical s) :
    Canonical t := by
  obtain ⟨hfile, hline, hlen, hpix⟩ := hc
  cases hl with
  | unit i =>
    refine ⟨hfile, ?_, hlen, hpix⟩
    rw [appended, appendUnit_line]
    split
    · exact storeCopies_wf hline ..
    · exact hline
  | callEnd => rw [endCall_eta]; exact ⟨hfile, hline, endCall_lineLen_wf hlen h d, hpix⟩
  | rowBuilt => exact ⟨hfile, hline, hlen, putRow_wf hpix ..⟩
  | truncated => exact ⟨hfile, hline, hlen, hpix⟩
  | rowPassed => exact ⟨hfile, hline, hlen, hpix⟩

theorem Advance.keeps_canonical {s t : State} (ha : Advance s t) (hc : Canonical s) : Canonical t := by
  have ⟨hfile, hline, hlen, hpix⟩ := hc
  cases ha with
  | init => exact ⟨hfile, hline, hlen, List.Pairwise.nil⟩
  | searched h found => cases found <;> exact hc
  | selected h => rw [formatSelected_eq]; exact hc
  | loop h d t hp hl => exact hl.keeps_canonical hc
  | _ => exact hc

theorem HostStep.keeps_canonical {s t : State} (hh : HostStep s t) (hc : Canonical s) : Canonical t := by
  have ⟨hfile, hline, hlen, hpix⟩ := hc
  cases hh with
  | reset => exact ⟨hfile, List.Pairwise.nil, List.Pairwise.nil, List.Pairwise.nil⟩
  | writeFile a b => exact ⟨Memory.set_wf hfile _ _, hline, hlen, hpix⟩
  | _ => exact hc

/-- Settles O50: each memory is written by `Memory.set` alone, or emptied. -/
theorem memoriesStayCanonical : Obligations.MemoriesStayCanonical := fun _ _ =>
  step_keeps (Inv := fun u => Canonical u) (fun _ _ hc => hc) (fun _ _ hc _ ha => ha.keeps_canonical hc)
    (fun _ _ hc hh => hh.keeps_canonical hc)

/-! ## Ranges -/

/-- A unit, the truncated RUN and nothing else in a pass moves CURSOR, by 1 or 2 within the file (43_rle_decode.md R177). -/
theorem LoopStep.cursor {h : Header} {d : Dims} {s t : State} (hl : LoopStep h d s t) (hc : s.cursor ≤ s.fileLen) :
    t.cursor ≤ s.fileLen ∧ (t.cursor = s.cursor ∨ t.cursor = s.cursor + 1 ∨ t.cursor = s.cursor + 2) := by
  cases hl with
  | unit i hin hi hn hcur =>
    exact ⟨hcur, .inr ((unitBytes_eq i).imp (congrArg (s.cursor + ·)) (congrArg (s.cursor + ·)))⟩
  | truncated hin hn hcur => exact ⟨le_rfl, .inr (.inl hcur.symm)⟩
  | callEnd => rw [endCall_cursor]; exact ⟨hc, .inl rfl⟩
  | rowPassed => exact ⟨hc, .inl rfl⟩
  | rowBuilt => exact ⟨hc, .inl rfl⟩

theorem toNat_succ_of_lt {w : Nat} {a b : BitVec w} (h : a.toNat < b.toNat) : (a + 1).toNat = a.toNat + 1 := by
  have hb := b.isLt
  have hone : (1 : BitVec w) = BitVec.ofNat w 1 := rfl
  rw [hone, BitVec.toNat_add, BitVec.toNat_ofNat, Nat.add_mod_mod, Nat.mod_eq_of_lt (by omega)]

/-- N, P and Y within their loops' bounds. -/
structure LoopBounds (h : Header) (d : Dims) (s : State) : Prop where
  n : s.n.toNat ≤ h.bytesPerLine.toNat
  p : s.p.toNat ≤ h.numPlanes.toNat
  y : s.y.toNat ≤ d.rows.toNat

theorem LoopStep.keeps_bounds {h : Header} {d : Dims} {s t : State} (hl : LoopStep h d s t) (hb : LoopBounds h d s) :
    LoopBounds h d t := by
  have nextRowBounds : s.y.toNat < d.rows.toNat → ∀ u, LoopBounds h d (nextRow { s with pix := u }) := fun hy _ =>
    ⟨Nat.zero_le _, Nat.zero_le _, (toNat_succ_of_lt hy).trans_le hy⟩
  cases hl with
  | unit i hin hi hn hcur => exact ⟨(appendUnit_n_toNat hn ..).trans_le hn, hb.p, hb.y⟩
  | truncated => exact ⟨hb.n, hb.p, hb.y⟩
  | callEnd hin =>
    refine ⟨?_, ?_, ?_⟩
    · rw [endCall_n]; exact Nat.zero_le _
    · rw [endCall_p, toNat_succ_of_lt hin.2]; exact hin.2
    · rw [endCall_y]; exact hb.y
  | rowPassed hy => exact nextRowBounds hy s.pix
  | rowBuilt hy => exact nextRowBounds hy _

theorem headerLen_fits {s : State} (hw : 8 ≤ s.params.addrW) : Config.headerLen < 2 ^ s.params.addrW :=
  lt_of_lt_of_le (by decide : Config.headerLen < 2 ^ 8) (Nat.pow_le_pow_right (by decide) hw)

/-- A phase has just begun: no loop runs. -/
theorem goPhase_not_scanning (ph : Phase) (s : State) : ¬Scanning (goPhase ph s) := by
  rintro ⟨-, ⟨-, hpt⟩ | ⟨-, hpt⟩⟩
  · cases hpt
  · exact hpt rfl

theorem inRange_of_not_busy {s : State} (ho : OffsetsFit s) (hb : isBusy s = false) : InRange s :=
  ⟨ho, fun h => (Bool.false_ne_true (hb.symm.trans h)).elim, fun h => (Bool.false_ne_true (hb.symm.trans h.1)).elim⟩

theorem startPass_inRange {s : State} (ho : OffsetsFit s) (hlong : 128 ≤ s.fileLen) : InRange (startPass s) :=
  ⟨⟨ho.1, ho.2.1, headerLen_fits ho.1, ho.2.2.2⟩, fun _ _ _ => hlong,
    fun _ => ⟨le_rfl, hlong, fun _ _ _ _ => ⟨Nat.zero_le _, Nat.zero_le _, Nat.zero_le _⟩⟩⟩

theorem InPass.bounds {h : Header} {d : Dims} {s : State} (hp : InPass h d s) (hi : InRange s) :
    128 ≤ s.cursor ∧ s.cursor ≤ s.fileLen ∧ LoopBounds h d s := by
  obtain ⟨-, -, hscan⟩ := hi
  obtain ⟨hlo, hhi, hloops⟩ := hscan ⟨hp.busy, hp.where_⟩
  obtain ⟨hn, hpl, hy⟩ := hloops h hp.hdr d hp.dims
  exact ⟨hlo, hhi, hn, hpl, hy⟩

theorem LoopStep.keeps_inRange {h : Header} {d : Dims} {s t : State} (hl : LoopStep h d s t) (hp : InPass h d s)
    (hi : InRange s) : InRange t := by
  obtain ⟨hlo, hhi, hbounds⟩ := hp.bounds hi
  obtain ⟨⟨hw, hlen, -, hbd⟩, hlong, -⟩ := hi
  obtain ⟨hle, hmove⟩ := hl.cursor hhi
  have hb := hl.keeps_bounds hbounds
  have hlo' : 128 ≤ t.cursor := by omega
  rw [hl.frame]
  refine ⟨⟨hw, hlen, lt_of_le_of_lt hle hlen, hbd⟩, hlong, fun _ => ⟨hlo', hle, fun h' hh d' hd => ?_⟩⟩
  obtain rfl : h = h' := Option.some.inj (hp.hdr.symm.trans hh)
  obtain rfl : d = d' := Option.some.inj (hp.dims.symm.trans hd)
  exact ⟨hb.n, hb.p, hb.y⟩

theorem Advance.keeps_inRange {s t : State} (ha : Advance s t) (hb : isBusy s = true) (hi : InRange s) : InRange t := by
  have ⟨ho, hlong, _⟩ := hi
  have ⟨hw, hlen, hcur, hbd⟩ := ho
  have begun : ∀ ph u, OffsetsFit (goPhase ph u) → 128 ≤ u.fileLen → InRange (goPhase ph u) := fun ph u ho hl =>
    ⟨ho, fun _ _ _ => hl, fun hs => absurd hs (goPhase_not_scanning ph u)⟩
  have searching : ∀ u : State, OffsetsFit u → 128 ≤ u.fileLen → u.phase = .palExtract → u.point = .search → InRange u := by
    refine fun u ho hl hph hpt => ⟨ho, fun _ _ _ => hl, ?_⟩
    rintro ⟨-, ⟨-, hscan⟩ | ⟨hdec, -⟩⟩
    · rw [hpt] at hscan; cases hscan
    · rw [hph] at hdec; cases hdec
  have long : s.phase ≠ .init ∧ s.phase ≠ .hdrParse → 128 ≤ s.fileLen := fun h => hlong hb h.1 h.2
  cases ha with
  | init =>
    exact ⟨⟨hw, hlen, headerLen_fits hw, fun _ h => by cases h⟩, fun _ _ h => absurd rfl h,
      fun hs => absurd hs (goPhase_not_scanning _ _)⟩
  | tooShort => exact inRange_of_not_busy ho rfl
  | rejected => exact inRange_of_not_busy ho rfl
  | parsed h hph hl => exact begun _ _ ho hl
  | accepted hph => exact begun _ _ ho (long (by simp [hph]))
  | sized h hph => exact begun _ _ ho (long (by simp [hph]))
  | dryRun hph => exact startPass_inRange ho (long (by simp [hph]))
  | noDryRun h hph => exact searching _ ho (long (by simp [hph])) hph rfl
  | searched h found hph => cases found <;> exact begun _ _ ho (long (by simp [hph]))
  | selected h hph =>
    unfold formatSelected prepared
    split <;> exact begun _ _ ho (long (by simp [hph]))
  | realPass hph => exact startPass_inRange ho (long (by simp [hph]))
  | loop h d t hp hl => exact hl.keeps_inRange hp hi
  | dryRunEnd h d hp hy hph =>
    refine searching _ ⟨hw, hlen, hcur, fun e he => ?_⟩ (long (by simp [hph])) hph rfl
    cases he
    exact hcur
  | realPassEnd h d hp hy hph => exact begun _ _ ho (long (by simp [hph]))
  | finished => exact inRange_of_not_busy ho rfl

theorem HostStep.keeps_inRange {s t : State} (hh : HostStep s t) (hi : InRange s) : InRange t ∧ t.params = s.params := by
  have ⟨ho, _, _⟩ := hi
  have ⟨hw, hlen, hcur, hbd⟩ := ho
  cases hh with
  | start hb => exact ⟨⟨ho, fun _ h => absurd rfl h, fun hs => absurd hs (goPhase_not_scanning _ _)⟩, rfl⟩
  | reset => exact ⟨inRange_of_not_busy ⟨hw, Nat.two_pow_pos _, headerLen_fits hw, fun _ h => by cases h⟩ rfl, rfl⟩
  | writeFile a b hb => exact ⟨inRange_of_not_busy ho hb, rfl⟩
  | writeLen w hb hfit => exact ⟨inRange_of_not_busy ⟨hw, of_decide_eq_true hfit, hcur, hbd⟩ hb, rfl⟩
  | noEffect => exact ⟨hi, rfl⟩
  | read v => exact ⟨hi, rfl⟩

/-- Settles O51: a pass starts at CURSOR = 128 <= L with its registers at 0, and each step of its loops keeps the bounds it tests. -/
theorem cursorStaysInRange : Obligations.CursorStaysInRange := fun s _ hi h =>
  step_keeps (Inv := fun u => InRange u ∧ u.params = s.params) (fun _ _ hi => hi)
    (fun _ _ hi hb ha => ⟨ha.keeps_inRange hb hi.1, ha.frame.1.trans hi.2⟩)
    (fun _ _ hi hh => ⟨(hh.keeps_inRange hi.1).1, (hh.keeps_inRange hi.1).2.trans hi.2⟩) ⟨hi, rfl⟩ h

/-- Settles O9: in a pass CURSOR moves by the loops' steps alone, and the end of the pass leaves it. -/
theorem cursorOnlyAdvances : Obligations.CursorOnlyAdvances := by
  intro s t h d hq hp hc hstep
  have hadv : t.cursor ≤ s.fileLen ∧ (t.cursor = s.cursor ∨ t.cursor = s.cursor + 1 ∨ t.cursor = s.cursor + 2) := by
    rcases hp.advance (step_advance hq hp.busy hstep) with hl | ⟨-, rfl⟩
    · exact hl.cursor hc
    · rw [endPass_cursor]; exact ⟨hc, .inl rfl⟩
  omega

end Sys2Proof.Machine
end

section
/-! What every step keeps of the results: ERR and IDLE, the palette and its fellows, the pixels assembled so far (10_state.md sections
5, 7 and 10, 60_exceptions.md section 2, 44_pixel_assemble.md R196). -/

namespace Sys2Proof.Machine

/-! ## ERR, ERROR and IDLE -/

theorem errorCoherent_of_busy {s : State} (hb : isBusy s = true) (he : s.phase ≠ .init → s.status.err = .noError)
    (hr : s.phase = .hdrParse ∨ s.phase = .validate → NoResult s) : ErrorCoherent s :=
  ⟨fun h => (by rw [isBusy_iff.1 hb] at h; cases h), fun _ hp => he fun hi => hp ⟨hb, hi⟩, fun _ => hr⟩

theorem idleIsReset_of_ne {s : State} (h : s.status.state ≠ .idle) : IdleIsReset s := fun hi => absurd hi h

theorem idleIsReset_of_busy {s : State} (hb : isBusy s = true) : IdleIsReset s :=
  idleIsReset_of_ne (by rw [isBusy_iff.1 hb]; decide)

/-- Before the header is accepted there is no result, so withdrawing it leaves none (60_exceptions.md R224). -/
theorem raiseError_coherent {e : ErrCode} (he : e ≠ .noError) {s : State} (hr : NoResult s) :
    ErrorCoherent (raiseError e s) := by
  obtain ⟨-, -, htr, hdb, -, hfmt, hsrc, hpc, hbd, -, hpal, hluma, hpix⟩ := hr
  exact ⟨fun _ => ⟨he, rfl, rfl, rfl, rfl, htr, hdb, rfl, hfmt, hsrc, hpc, hbd, rfl, hpal, hluma, hpix⟩,
    fun h => absurd rfl h, nofun⟩

theorem initDecode_noResult (s : State) : NoResult (initDecode s) :=
  ⟨rfl, rfl, rfl, rfl, rfl, rfl, rfl, rfl, rfl, rfl, rfl, rfl, rfl⟩

theorem LoopStep.keeps_errorCoherent {h : Header} {d : Dims} {s t : State} (hl : LoopStep h d s t) (hp : InPass h d s)
    (he : s.status.err = .noError) : ErrorCoherent t := by
  have hpass := hp.where_
  rw [hl.frame]
  exact errorCoherent_of_busy hp.busy (fun _ => he) fun h => by
    rcases h with h | h <;> simp only at h <;> simp [h] at hpass

theorem Advance.keeps_errorCoherent {s t : State} (ha : Advance s t) (hb : isBusy s = true) (hc : ErrorCoherent s) :
    ErrorCoherent t := by
  obtain ⟨-, hnoError, hnone⟩ := hc
  have err : s.phase ≠ .init → s.status.err = .noError := fun hp =>
    hnoError (by rw [isBusy_iff.1 hb]; decide) fun h => hp h.2
  have later : ∀ t : State, isBusy t = true → t.status.err = .noError → t.phase ≠ .hdrParse ∧ t.phase ≠ .validate →
      ErrorCoherent t := fun t hb he hp => errorCoherent_of_busy hb (fun _ => he) fun h => (h.elim hp.1 hp.2).elim
  cases ha with
  | init => exact errorCoherent_of_busy hb (fun _ => rfl) fun _ => initDecode_noResult s
  | tooShort hph => exact raiseError_coherent (by decide) (hnone hb (.inl hph))
  | rejected hph => exact raiseError_coherent (by decide) (hnone hb (.inr hph))
  | parsed h hph => exact errorCoherent_of_busy hb (fun _ => err (by simp [hph])) fun _ => hnone hb (.inl hph)
  | accepted hph => exact later _ hb (err (by simp [hph])) (by simp)
  | sized h hph => exact later _ hb (err (by simp [hph])) (by simp)
  | dryRun hph => exact later _ hb (err (by simp [hph])) (by simp [hph])
  | noDryRun h hph => exact later _ hb (err (by simp [hph])) (by simp [hph])
  | searched h found hph => cases found <;> exact later _ hb (err (by simp [hph])) (by simp)
  | selected h hph => rw [formatSelected_eq]; exact later _ hb (err (by simp [hph])) (by simp)
  | realPass hph => exact later _ hb (err (by simp [hph])) (by simp [hph])
  | loop h d t hp hl => exact hl.keeps_errorCoherent hp (err (by rcases hp.where_ with hw | hw <;> simp [hw.1]))
  | dryRunEnd h d hp hy hph => exact later _ hb (err (by simp [hph])) (by simp [hph])
  | realPassEnd h d hp hy hph => exact later _ hb (err (by simp [hph])) (by simp)
  | finished hph => exact ⟨nofun, fun _ _ => err (by simp [hph]), nofun⟩

/-- No step of a decode goes to IDLE. -/
theorem Advance.state {s t : State} (ha : Advance s t) (hb : isBusy s = true) :
    isBusy t = true ∨ t.status.state = .done ∨ t.status.state = .error := by
  cases ha with
  | tooShort => exact .inr (.inr rfl)
  | rejected => exact .inr (.inr rfl)
  | finished => exact .inr (.inl rfl)
  | searched h found => cases found <;> exact .inl hb
  | selected h => rw [formatSelected_eq]; exact .inl hb
  | loop h d t hp hl => rw [hl.frame]; exact .inl hb
  | _ => exact .inl hb

theorem Advance.idleIsReset {s t : State} (ha : Advance s t) (hb : isBusy s = true) : IdleIsReset t := by
  rcases ha.state hb with h | h | h
  · exact idleIsReset_of_busy h
  · exact idleIsReset_of_ne (by rw [h]; decide)
  · exact idleIsReset_of_ne (by rw [h]; decide)

theorem resetBlock_errorCoherent (s : State) : ErrorCoherent (resetBlock s) :=
  ⟨nofun, fun _ _ => rfl, nofun⟩

theorem HostStep.keeps_errorCoherent {s t : State} (hh : HostStep s t) (hc : ErrorCoherent s) : ErrorCoherent t := by
  cases hh with
  | start => exact errorCoherent_of_busy rfl (fun h => absurd rfl h) fun h => by rcases h with h | h <;> cases h
  | reset => exact resetBlock_errorCoherent s
  | _ => exact hc

theorem HostStep.keeps_idleIsReset {s t : State} (hh : HostStep s t) (hi : IdleIsReset s) : IdleIsReset t := by
  cases hh with
  | noEffect => exact hi
  | start => exact idleIsReset_of_busy rfl
  | reset => exact fun _ => rfl
  | writeFile a b => exact fun h => congrArg (fun u : State => { u with file := s.file.set a b }) (hi h)
  | writeLen w => exact fun h => congrArg (fun u : State => { u with fileLen := w.toNat }) (hi h)
  | read v => exact fun h => congrArg (fun u : State => { u with rdata := some v }) (hi h)

/-- Settles O52: only HDR_PARSE and VALIDATE raise an error, where there is no result yet; only RESET goes to IDLE. -/
theorem errorAndIdleStayCoherent : Obligations.ErrorAndIdleStayCoherent := fun _ _ =>
  step_keeps (Inv := fun u => ErrorCoherent u ∧ IdleIsReset u)
    (fun _ q hi => ⟨hi.1, fun h => congrArg (fun u : State => { u with host := q }) (hi.2 h)⟩)
    (fun _ _ hi hb ha => ⟨ha.keeps_errorCoherent hb hi.1, ha.idleIsReset hb⟩)
    (fun _ _ hi hh => ⟨hh.keeps_errorCoherent hi.1, hh.keeps_idleIsReset hi.2⟩)

/-! ## The registers of the results -/

/-- How the result registers agree with each other, whatever the phase. -/
structure RegistersAgree (st : Status) (count : BitVec 9) (table : List Rgb) (lumas : List Byte) (offset : Option Nat)
    (header : Option Header) (size : Option Dims) : Prop where
  palPresent : st.palPresent = true ↔ st.palSrc ≠ .absent
  palCount : count = st.palSrc.count
  palLength : table.length = count.toNat
  boundary : st.boundaryValid = true ↔ offset.isSome = true
  imgValid : st.imgValid = true ↔ st.state = .done
  headerTable : st.palSrc = .s5 → ∀ h ∈ header, h.bpp.toNat ≤ 4
  luma : st.format = .indexedViaLuma → count = 256 ∧ lumas.length = 256
  done : st.state = .done → st.hdrValid = true ∧ header.isSome = true ∧ size.isSome = true

/-- What a phase of a decode finds: the registers of later phases as INIT left them, those of earlier ones written. -/
structure FoundBy (ph : Phase) (st : Status) (header : Option Header) (size : Option Dims) : Prop where
  palSrc : ph ≠ .formatSelect → ph ≠ .decode → ph ≠ .finish → st.palSrc = .absent
  format : ph ≠ .decode → ph ≠ .finish → st.format = .rgb24
  hdr : ph ≠ .hdrParse → header.isSome = true
  hdrValid : ph ≠ .hdrParse → ph ≠ .validate → st.hdrValid = true
  dims : ph ≠ .hdrParse → ph ≠ .validate → ph ≠ .dims → size.isSome = true

theorem FoundBy.early {ph : Phase} {st : Status} {hd : Option Header} {dm : Option Dims} (hf : FoundBy ph st hd dm)
    (h : ph ≠ .formatSelect ∧ ph ≠ .decode ∧ ph ≠ .finish) : st.palSrc = .absent ∧ st.format = .rgb24 :=
  ⟨hf.palSrc h.1 h.2.1 h.2.2, hf.format h.2.1 h.2.2⟩

theorem FoundBy.late {ph : Phase} {st : Status} {hd : Option Header} {dm : Option Dims} (hf : FoundBy ph st hd dm)
    (h : ph ≠ .hdrParse ∧ ph ≠ .validate ∧ ph ≠ .dims) : hd.isSome = true ∧ st.hdrValid = true ∧ dm.isSome = true :=
  ⟨hf.hdr h.1, hf.hdrValid h.1 h.2.1, hf.dims h.1 h.2.1 h.2.2⟩

/-- The registers of a state agree. -/
abbrev Agreed (s : State) : Prop := RegistersAgree s.status s.palCount s.pal s.luma s.boundary s.hdr s.dims

/-- A state's phase finds what it should. -/
abbrev Found (s : State) : Prop := FoundBy s.phase s.status s.hdr s.dims

theorem resultCoherent_iff {s : State} :
    ResultCoherent s ↔ (∀ h ∈ s.hdr, h.hpal.length = 16) ∧ (PastInit s → Agreed s ∧ (isBusy s = true → Found s)) := by
  refine and_congr_right fun _ => imp_congr_right fun _ => ⟨?_, ?_⟩
  · rintro ⟨h1, h2, h3, h4, h5, h6, h7, h8, h9, h10, h11, h12, h13⟩
    exact ⟨⟨h1, h2, h3, h4, h5, h6, h7, h8⟩, fun hb => ⟨h9 hb, h10 hb, h11 hb, h12 hb, h13 hb⟩⟩
  · rintro ⟨⟨h1, h2, h3, h4, h5, h6, h7, h8⟩, hf⟩
    exact ⟨h1, h2, h3, h4, h5, h6, h7, h8, fun hb => (hf hb).palSrc, fun hb => (hf hb).format, fun hb => (hf hb).hdr,
      fun hb => (hf hb).hdrValid, fun hb => (hf hb).dims⟩

/-- The registers as INIT and RESET leave them agree. -/
theorem agreed_of_noResult {s : State} (hn : NoResult s) (hs : s.status.state ≠ .done) : Agreed s := by
  obtain ⟨hpp, hiv, -, -, hbv, hfmt, hsrc, hpc, hbd, -, hpal, -, -⟩ := hn
  refine ⟨?_, ?_, ?_, ?_, ?_, ?_, ?_, fun h => absurd h hs⟩
  · simp [hpp, hsrc]
  · rw [hpc, hsrc]; rfl
  · rw [hpal, hpc]; rfl
  · simp [hbv, hbd]
  · simp [hiv, hs]
  · simp [hsrc]
  · simp [hfmt]

/-- A palette of 256 entries wherever one is present and the pixels have more than 4 bits: S5's has depth 4 at most. -/
theorem Agreed.palCount_eq {s : State} (ha : Agreed s) {h : Header} (hh : s.hdr = some h) (hp : s.status.palPresent = true)
    (hb : 4 < h.bpp.toNat) : s.palCount = 256 := by
  have hpresent := ha.palPresent.1 hp
  have h5 : s.status.palSrc ≠ .s5 := fun h5 => absurd (ha.headerTable h5 h hh) (by omega)
  rw [ha.palCount]
  cases hsrc : s.status.palSrc with
  | absent => exact absurd hsrc hpresent
  | s5 => exact absurd hsrc h5
  | _ => rfl

theorem chosenFormat_indexed {p : Bool} {h : Header} (hf : chosenFormat p h = .indexedViaLuma) :
    p = true ∧ h.bpp.toNat = 8 := by
  unfold chosenFormat at hf
  split_ifs at hf with h1 h2
  exact ⟨h2.2.2, h2.2.1⟩

/-- The selection of a format comes with its 256 luma entries (44_pixel_assemble.md R191). -/
theorem formatSelected_agreed {s : State} (ha : Agreed s) {h : Header} (hh : s.hdr = some h) :
    Agreed (formatSelected (chosenFormat s.status.palPresent h) s) := by
  rw [formatSelected_eq]
  refine { ha with luma := fun hf => ?_ }
  obtain ⟨hp, hb⟩ := chosenFormat_indexed hf
  have h256 := Agreed.palCount_eq ha hh hp (by omega)
  refine ⟨h256, ?_⟩
  show (if chosenFormat s.status.palPresent h = .indexedViaLuma then s.pal.map _ else s.luma).length = 256
  rw [if_pos hf, List.length_map, ha.palLength, h256]
  rfl

theorem recordPalette_agreed {s : State} (ha : Agreed s) (hsrc : s.status.palSrc = .absent) (hfmt : s.status.format = .rgb24)
    {h : Header} (hh : s.hdr = some h) (h16 : h.hpal.length = 16) {found : Option (List Rgb × PalSrc)}
    (hf : findPalette h s = .ok found) : Agreed (recordPalette found s) := by
  cases found with
  | none =>
    have hpal : s.pal.length = 0 := by rw [ha.palLength, ha.palCount, hsrc]; rfl
    exact { ha with
      palPresent := by simp, palCount := rfl, palLength := hpal, headerTable := fun h => (by cases h),
      luma := fun h => (by rw [recordPalette_none_status, hfmt] at h; cases h) }
  | some c =>
    obtain ⟨l, src⟩ := c
    obtain ⟨hne, hlen, h5⟩ := findPalette_some hf h16
    refine { ha with
      palPresent := iff_of_true rfl hne, palCount := rfl, palLength := hlen, headerTable := fun hs h' hh' => ?_,
      luma := fun h => (by rw [recordPalette_some_status, hfmt] at h; cases h) }
    obtain rfl : h = h' := Option.some.inj (hh.symm.trans hh')
    exact h5 hs

/-- Withdrawing the results before the palette and the format are chosen leaves registers that agree. -/
theorem raiseError_agreed {s : State} (hn : NoResult s) (e : ErrCode) : Agreed (raiseError e s) := by
  obtain ⟨-, -, htr, hdb, -, hfmt, hsrc, hpc, hbd, -, hpal, hluma, hpix⟩ := hn
  exact agreed_of_noResult ⟨rfl, rfl, htr, hdb, rfl, hfmt, hsrc, hpc, hbd, rfl, hpal, hluma, hpix⟩ (by simp)

theorem LoopStep.keeps_agreed {h : Header} {d : Dims} {s t : State} (hl : LoopStep h d s t) (ha : Agreed s) (hf : Found s) :
    Agreed t ∧ Found t := by
  rw [hl.frame]
  exact ⟨{ ha with }, { hf with }⟩

theorem not_busy_raiseError {e : ErrCode} {s : State} {p : Prop} (h : isBusy (raiseError e s) = true) : p := by cases h

theorem Advance.keeps_agreed {s t : State} (ha : Advance s t) (hb : isBusy s = true) (hc : ErrorCoherent s)
    (h16 : ∀ h ∈ s.hdr, h.hpal.length = 16) (hr : s.phase ≠ .init → Agreed s ∧ Found s) :
    Agreed t ∧ (isBusy t = true → Found t) := by
  obtain ⟨-, -, hnone⟩ := hc
  have hbusy := isBusy_iff.1 hb
  cases ha with
  | init =>
    exact ⟨agreed_of_noResult (initDecode_noResult s) (by simp [Status.cleared, hbusy]),
      fun _ => ⟨fun _ _ _ => rfl, fun _ _ => rfl, fun h => absurd rfl h, fun h => absurd rfl h, fun h => absurd rfl h⟩⟩
  | tooShort hph => exact ⟨raiseError_agreed (hnone hb (.inl hph)) _, not_busy_raiseError⟩
  | rejected hph => exact ⟨raiseError_agreed (hnone hb (.inr hph)) _, not_busy_raiseError⟩
  | parsed h hph =>
    obtain ⟨ag, fd⟩ := hr (by simp [hph])
    obtain ⟨hsrc, hfmt⟩ := fd.early (by simp [hph])
    exact ⟨{ ag with
        headerTable := fun h5 => absurd (hsrc.symm.trans h5) (by decide)
        done := fun h => absurd (hbusy.symm.trans h) (by decide) },
      fun _ => ⟨fun _ _ _ => hsrc, fun _ _ => hfmt, fun _ => rfl, fun _ h => absurd rfl h, fun _ h => absurd rfl h⟩⟩
  | accepted hph hh =>
    obtain ⟨ag, fd⟩ := hr (by simp [hph])
    obtain ⟨hsrc, hfmt⟩ := fd.early (by simp [hph])
    exact ⟨{ ag with done := fun h => absurd (hbusy.symm.trans h) (by decide) },
      fun _ => ⟨fun _ _ _ => hsrc, fun _ _ => hfmt, fun _ => hh, fun _ _ => rfl, fun _ _ h => absurd rfl h⟩⟩
  | sized h hph hh =>
    obtain ⟨ag, fd⟩ := hr (by simp [hph])
    obtain ⟨hsrc, hfmt⟩ := fd.early (by simp [hph])
    exact ⟨{ ag with done := fun h => absurd (hbusy.symm.trans h) (by decide) },
      fun _ => ⟨fun _ _ _ => hsrc, fun _ _ => hfmt, fun _ => hh ▸ rfl, fun _ _ => fd.hdrValid (by simp [hph]) (by simp [hph]),
        fun _ _ _ => rfl⟩⟩
  | dryRun hph =>
    obtain ⟨ag, fd⟩ := hr (by simp [hph])
    exact ⟨ag, fun _ => fd⟩
  | noDryRun h hph =>
    obtain ⟨ag, fd⟩ := hr (by simp [hph])
    exact ⟨ag, fun _ => fd⟩
  | searched h found hph hpt hh hf =>
    obtain ⟨ag, fd⟩ := hr (by simp [hph])
    obtain ⟨hsrc, hfmt⟩ := fd.early (by simp [hph])
    obtain ⟨hhdr, hvalid, hdims⟩ := fd.late (by simp [hph])
    refine ⟨recordPalette_agreed ag hsrc hfmt hh (h16 h hh) hf, fun _ => ?_⟩
    cases found <;> exact ⟨fun h => absurd rfl h, fun _ _ => hfmt, fun _ => hhdr, fun _ _ => hvalid, fun _ _ _ => hdims⟩
  | selected h hph hh =>
    obtain ⟨ag, fd⟩ := hr (by simp [hph])
    obtain ⟨hhdr, hvalid, hdims⟩ := fd.late (by simp [hph])
    refine ⟨formatSelected_agreed ag hh, fun _ => ?_⟩
    rw [formatSelected_eq]
    exact ⟨fun _ h => absurd rfl h, fun h => absurd rfl h, fun _ => hhdr, fun _ _ => hvalid, fun _ _ _ => hdims⟩
  | realPass hph =>
    obtain ⟨ag, fd⟩ := hr (by simp [hph])
    exact ⟨ag, fun _ => fd⟩
  | loop h d t hp hl =>
    obtain ⟨ag, fd⟩ := hr (by rcases hp.where_ with hw | hw <;> simp [hw.1])
    exact ⟨(hl.keeps_agreed ag fd).1, fun _ => (hl.keeps_agreed ag fd).2⟩
  | dryRunEnd h d hp hy hph =>
    obtain ⟨ag, fd⟩ := hr (by simp [hph])
    exact ⟨{ ag with boundary := iff_of_true rfl rfl }, fun _ => { fd with }⟩
  | realPassEnd h d hp hy hph =>
    obtain ⟨ag, fd⟩ := hr (by simp [hph])
    obtain ⟨hhdr, hvalid, hdims⟩ := fd.late (by simp [hph])
    exact ⟨ag, fun _ => ⟨fun _ _ h => absurd rfl h, fun _ h => absurd rfl h, fun _ => hhdr, fun _ _ => hvalid,
      fun _ _ _ => hdims⟩⟩
  | finished hph =>
    obtain ⟨ag, fd⟩ := hr (by simp [hph])
    obtain ⟨hhdr, hvalid, hdims⟩ := fd.late (by simp [hph])
    exact ⟨{ ag with imgValid := iff_of_true rfl rfl, done := fun _ => ⟨hvalid, hhdr, hdims⟩ }, nofun⟩

/-- The header's table has its 16 entries wherever there is a header. -/
theorem Advance.keeps_hpal {s t : State} (ha : Advance s t) (h16 : ∀ h ∈ s.hdr, h.hpal.length = 16) :
    ∀ h ∈ t.hdr, h.hpal.length = 16 := by
  cases ha with
  | init => exact nofun
  | tooShort => exact nofun
  | rejected => exact nofun
  | parsed h hph hl hr =>
    intro h' hh'
    cases hh'
    exact readHeader_hpal hr
  | searched h found => cases found <;> exact h16
  | selected h => rw [formatSelected_eq]; exact h16
  | loop h d t hp hl => rw [hl.frame]; exact h16
  | _ => exact h16

theorem Advance.keeps_resultCoherent {s t : State} (ha : Advance s t) (hb : isBusy s = true) (hc : ErrorCoherent s)
    (hr : ResultCoherent s) : ResultCoherent t := by
  obtain ⟨h16, hpast⟩ := resultCoherent_iff.1 hr
  refine resultCoherent_iff.2 ⟨ha.keeps_hpal h16, fun _ => ha.keeps_agreed hb hc h16 fun hph => ?_⟩
  obtain ⟨ag, fd⟩ := hpast fun h => hph h.2
  exact ⟨ag, fd hb⟩

theorem HostStep.keeps_resultCoherent {s t : State} (hh : HostStep s t) (hr : ResultCoherent s) : ResultCoherent t := by
  cases hh with
  | start => exact ⟨hr.1, fun h => absurd ⟨rfl, rfl⟩ h⟩
  | reset =>
    have hag : Agreed (resetBlock s) := agreed_of_noResult ⟨rfl, rfl, rfl, rfl, rfl, rfl, rfl, rfl, rfl, rfl, rfl, rfl, rfl⟩ nofun
    exact resultCoherent_iff.2 ⟨nofun, fun _ => ⟨hag, nofun⟩⟩
  | _ => exact hr

/-- Settles O53: each phase writes its registers together; ERROR is raised before any of them holds a value. -/
theorem resultsStayCoherent : Obligations.ResultsStayCoherent := fun _ _ =>
  step_keeps (Inv := fun u => ErrorCoherent u ∧ ResultCoherent u) (fun _ _ hi => hi)
    (fun _ _ hi hb ha => ⟨ha.keeps_errorCoherent hb hi.1, ha.keeps_resultCoherent hb hi.1 hi.2⟩)
    (fun _ _ hi hh => ⟨hh.keeps_errorCoherent hi.1, hh.keeps_resultCoherent hi.2⟩)

/-! ## Pixels -/

/-- Every pixel of the first `rows` rows of `cols` columns is present or absent (44_pixel_assemble.md R196). -/
def RowsDefined (pix : Memory (Option Rgb)) (rows cols : Nat) : Prop :=
  ∀ y x, y < rows → x < cols → (pix.get (pixKey y x)).isSome = true

/-- The finished image is defined, and while rows are assembled those before row Y are. -/
theorem pixelsDefined_iff {s : State} : PixelsDefined s ↔
    (s.status.state = .done ∨ (isBusy s = true ∧ s.phase = .finish) →
      ∀ d, s.dims = some d → RowsDefined s.pix d.rows.toNat d.cols.toNat) ∧
    (isBusy s = true → s.phase = .decode → s.point ≠ .enter →
      ∀ d, s.dims = some d → RowsDefined s.pix s.y.toNat d.cols.toNat) := Iff.rfl

/-- A pixel that is defined stays so when a row is written. -/
theorem putRow_isSome (y : Nat) (px : Nat → Option Rgb) (cols : Nat) {m : Memory (Option Rgb)} {a : Nat}
    (h : (m.get a).isSome = true) : ((putRow y px cols m).get a).isSome = true := by
  induction cols with
  | zero => exact h
  | succ k ih =>
    rw [putRow, Memory.get_set]
    split
    · rfl
    · exact ih

theorem putRow_rowsDefined {m : Memory (Option Rgb)} {y cols : Nat} (h : RowsDefined m y cols) (px : Nat → Option Rgb) :
    RowsDefined (putRow y px cols m) (y + 1) cols := by
  intro y' x hy hx
  rcases Nat.lt_succ_iff_lt_or_eq.1 hy with hlt | rfl
  · exact putRow_isSome y px cols (h y' x hlt hx)
  · rw [putRow_get_row y' px hx]; rfl

/-- A block that neither assembles rows nor has an image owes no pixel. -/
theorem pixelsDefined_elsewhere {s : State} (hd : s.status.state ≠ .done) (hf : s.phase ≠ .finish)
    (hp : s.phase = .decode → s.point = .enter) : PixelsDefined s :=
  pixelsDefined_iff.2 ⟨fun h => (h.elim hd fun h => hf h.2).elim, fun _ h1 h2 => absurd (hp h1) h2⟩

theorem LoopStep.keeps_rowsDefined {h : Header} {d : Dims} {s t : State} (hl : LoopStep h d s t) (hph : s.phase = .decode)
    (hr : RowsDefined s.pix s.y.toNat d.cols.toNat) : RowsDefined t.pix t.y.toNat d.cols.toNat := by
  cases hl with
  | callEnd => rw [endCall_pix, endCall_y]; exact hr
  | rowPassed hy hpl hne => exact absurd hph hne
  | rowBuilt hy hpl _ =>
    have hdef := putRow_rowsDefined hr (rowPixel (formatInstr h s) s)
    rw [← toNat_succ_of_lt hy] at hdef
    exact hdef
  | unit => exact hr
  | truncated => exact hr

theorem LoopStep.keeps_pixelsDefined {h : Header} {d : Dims} {s t : State} (hl : LoopStep h d s t) (hp : InPass h d s)
    (hi : PixelsDefined s) : PixelsDefined t := by
  obtain ⟨-, hrows⟩ := pixelsDefined_iff.1 hi
  have hbusy := isBusy_iff.1 hp.busy
  have hkeep := hl.keeps_rowsDefined
  rw [hl.frame]
  rcases hp.where_ with ⟨hph, -⟩ | ⟨hph, hpt⟩
  · exact pixelsDefined_elsewhere (by simp [hbusy]) (by simp [hph]) (by simp [hph])
  · refine pixelsDefined_iff.2 ⟨fun h => by simp [hbusy, hph] at h, fun _ _ _ d' hd => ?_⟩
    obtain rfl : d = d' := Option.some.inj (hp.dims.symm.trans hd)
    exact hkeep hph (hrows hp.busy hph hpt d hp.dims)

theorem Advance.keeps_pixelsDefined {s t : State} (ha : Advance s t) (hb : isBusy s = true) (hi : PixelsDefined s) :
    PixelsDefined t := by
  obtain ⟨hdone, hrows⟩ := pixelsDefined_iff.1 hi
  have hbusy := isBusy_iff.1 hb
  cases ha with
  | searched h found hph => cases found <;> exact pixelsDefined_elsewhere (by simp [hbusy]) (by simp) (by simp)
  | selected h => rw [formatSelected_eq]; exact pixelsDefined_elsewhere (by simp [hbusy]) (by simp) (by simp)
  | realPass hph => exact pixelsDefined_iff.2 ⟨fun h => by simp [hbusy, hph] at h, fun _ _ _ _ _ _ _ hy => by simp at hy⟩
  | loop h d t hp hl => exact hl.keeps_pixelsDefined hp hi
  | realPassEnd h d hp hy hph hpt =>
    refine pixelsDefined_iff.2 ⟨fun _ d' hd y x hy' hx => ?_, fun _ h => by cases h⟩
    obtain rfl : d = d' := Option.some.inj (hp.dims.symm.trans hd)
    exact hrows hb hph hpt d hd y x (lt_of_lt_of_le hy' hy) hx
  | finished hph => exact pixelsDefined_iff.2 ⟨fun _ => hdone (.inr ⟨hb, hph⟩), fun h => by cases h⟩
  | tooShort hph => exact pixelsDefined_elsewhere (by simp) (by simp [hph]) (by simp [hph])
  | rejected hph => exact pixelsDefined_elsewhere (by simp) (by simp [hph]) (by simp [hph])
  | init hph => exact pixelsDefined_elsewhere (by simp [Status.cleared, hbusy]) (by simp) (by simp)
  | parsed h hph => exact pixelsDefined_elsewhere (by simp [hbusy]) (by simp) (by simp)
  | accepted hph => exact pixelsDefined_elsewhere (by simp [hbusy]) (by simp) (by simp)
  | sized h hph => exact pixelsDefined_elsewhere (by simp [hbusy]) (by simp) (by simp)
  | dryRun hph => exact pixelsDefined_elsewhere (by simp [hbusy]) (by simp [hph]) (by simp [hph])
  | noDryRun h hph => exact pixelsDefined_elsewhere (by simp [hbusy]) (by simp [hph]) (by simp [hph])
  | dryRunEnd h d hp hy hph => exact pixelsDefined_elsewhere (by simp [hbusy]) (by simp [hph]) (by simp [hph])

theorem HostStep.keeps_pixelsDefined {s t : State} (hh : HostStep s t) (hi : PixelsDefined s) : PixelsDefined t := by
  cases hh with
  | start => exact pixelsDefined_elsewhere nofun nofun nofun
  | reset => exact pixelsDefined_elsewhere nofun nofun nofun
  | _ => exact hi

/-- Settles O54: a row defines its pixels and takes none away; the image is finished when every row was assembled. -/
theorem pixelsStayDefined : Obligations.PixelsStayDefined := fun _ _ =>
  step_keeps (Inv := PixelsDefined) (fun _ _ hi => hi) (fun _ _ hi hb ha => ha.keeps_pixelsDefined hb hi)
    (fun _ _ hi hh => hh.keeps_pixelsDefined hi)

/-! ## Reset meets them all -/

/-- Settles O2: at reset the block is IDLE, every memory is empty and no register but CURSOR holds a value. -/
theorem resetMeetsTheInvariants : Obligations.ResetMeetsTheInvariants := by
  have hag : Agreed State.reset := agreed_of_noResult ⟨rfl, rfl, rfl, rfl, rfl, rfl, rfl, rfl, rfl, rfl, rfl, rfl, rfl⟩ nofun
  exact ⟨⟨.nil, .nil, .nil, .nil⟩, inRange_of_not_busy ⟨by decide, by decide, by decide, nofun⟩ rfl,
    resetBlock_errorCoherent State.reset, fun _ => rfl, resultCoherent_iff.2 ⟨nofun, fun _ => ⟨hag, nofun⟩⟩,
    pixelsDefined_elsewhere nofun nofun nofun⟩

end Sys2Proof.Machine
end

section
/-! The block goes on (10_state.md R39, 40_sequencer_host_commands.md R130): a pass steps as its loops say, a ready block steps in every
phase, and each step of a decode spends its budget. -/

namespace Sys2Proof.Machine

/-! ## The step of a pass -/

/-- In a pass the block runs the pass's loops. -/
theorem planBlock_inPass {h : Header} {d : Dims} {s : State} (hp : InPass h d s) : planBlock s = planScan h d s := by
  have hpass : planPass s = planScan h d s := by rw [planPass, header_ok.2 hp.hdr, dimensions_ok.2 hp.dims]
  rw [planBlock, if_pos hp.busy, planPhase, ← hpass]
  rcases hp.where_ with ⟨hph, hpt⟩ | ⟨hph, hpt⟩
  · rw [hph, hpt]
  · rw [hph]
    cases hpt' : s.point with
    | enter => exact absurd hpt' hpt
    | scan => rfl
    | search => rfl

section
variable {h : Header} {d : Dims} {s : State}

theorem planScan_unit {bytes rest : List Byte} {i : Instr} (hin : InCall h d s) (hu : unitDue h s = true)
    (hf : fetchUnit s = .ok bytes) (hd : decodeUnit bytes = .ok (i, rest)) : planScan h d s = .instr i s := by
  rw [planScan, if_pos hin.1, if_pos hin.2, if_pos hu, planUnit, hf]
  simp only [hd]

theorem planScan_truncated {bytes : List Byte} {r : DecodeReject} (hin : InCall h d s) (hu : unitDue h s = true)
    (hf : fetchUnit s = .ok bytes) (hd : decodeUnit bytes = .error r) :
    planScan h d s = .operation (.ok (truncateRun s)) := by
  rw [planScan, if_pos hin.1, if_pos hin.2, if_pos hu, planUnit, hf]
  simp only [hd]

theorem planScan_callEnd (hin : InCall h d s) (hu : unitDue h s = false) :
    planScan h d s = .operation (.ok (endCall h d s)) := by
  rw [planScan, if_pos hin.1, if_pos hin.2, if_neg (by rw [hu]; exact Bool.false_ne_true)]

theorem planScan_rowPassed (hy : s.y.toNat < d.rows.toNat) (hpl : h.numPlanes.toNat ≤ s.p.toNat) (hs : s.phase ≠ .decode) :
    planScan h d s = .operation (.ok (nextRow s)) := by
  rw [planScan, if_pos hy, if_neg (Nat.not_lt.2 hpl), if_neg (mt storing_iff.1 hs)]

theorem planScan_rowBuilt (hy : s.y.toNat < d.rows.toNat) (hpl : h.numPlanes.toNat ≤ s.p.toNat) (hs : s.phase = .decode) :
    planScan h d s = .instr (formatInstr h s) s := by
  rw [planScan, if_pos hy, if_neg (Nat.not_lt.2 hpl), if_pos (storing_iff.2 hs)]

theorem planScan_passEnd (hy : d.rows.toNat ≤ s.y.toNat) : planScan h d s = .operation (.ok (endPass s)) := by
  rw [planScan, if_neg (Nat.not_lt.2 hy)]

end

/-! ## The step of a pass with no host move pending -/

section
variable {h : Header} {d : Dims} {s : State} (hq : s.host = []) (hp : InPass h d s)
include hq hp

theorem step_inPass : step s = (planScan h d s).run := by rw [step_block hq, planBlock_inPass hp]

theorem step_unit {bytes rest : List Byte} {i : Instr} (hin : InCall h d s) (hu : unitDue h s = true)
    (hf : fetchUnit s = .ok bytes) (hd : decodeUnit bytes = .ok (i, rest)) : step s = .next (appended i s) := by
  rw [step_inPass hq hp, planScan_unit hin hu hf hd]
  exact exec_unit_appends (isUnitInstr_decodeUnit hd) hp.hdr

theorem step_truncated {bytes : List Byte} {r : DecodeReject} (hin : InCall h d s) (hu : unitDue h s = true)
    (hf : fetchUnit s = .ok bytes) (hd : decodeUnit bytes = .error r) : step s = .next (truncateRun s) := by
  rw [step_inPass hq hp, planScan_truncated hin hu hf hd]; rfl

theorem step_callEnd (hin : InCall h d s) (hu : unitDue h s = false) : step s = .next (endCall h d s) := by
  rw [step_inPass hq hp, planScan_callEnd hin hu]; rfl

theorem step_rowPassed (hy : s.y.toNat < d.rows.toNat) (hpl : h.numPlanes.toNat ≤ s.p.toNat) (hs : s.phase ≠ .decode) :
    step s = .next (nextRow s) := by
  rw [step_inPass hq hp, planScan_rowPassed hy hpl hs]; rfl

theorem step_rowBuilt (hy : s.y.toNat < d.rows.toNat) (hpl : h.numPlanes.toNat ≤ s.p.toNat) (hs : s.phase = .decode) :
    step s = .next (rowAssembled (formatInstr h s) d s) := by
  rw [step_inPass hq hp, planScan_rowBuilt hy hpl hs]
  exact exec_assembles (isFormatInstr_formatInstr h s) hs hp.dims

theorem step_passEnd (hy : d.rows.toNat ≤ s.y.toNat) : step s = .next (endPass s) := by
  rw [step_inPass hq hp, planScan_passEnd hy]; rfl

/-- In a pass over a written file the block always steps. -/
theorem inPass_steps (hw : FileWritten s) : ∃ t, step s = .next t := by
  by_cases hy : s.y.toNat < d.rows.toNat
  · by_cases hpl : s.p.toNat < h.numPlanes.toNat
    · cases hu : unitDue h s with
      | false => exact ⟨_, step_callEnd hq hp ⟨hy, hpl⟩ hu⟩
      | true =>
        obtain ⟨bytes, hf⟩ := fetchUnit_written hw (unitDue_iff.1 hu).2
        cases hd : decodeUnit bytes with
        | ok ir => exact ⟨_, step_unit hq hp ⟨hy, hpl⟩ hu hf hd⟩
        | error r => exact ⟨_, step_truncated hq hp ⟨hy, hpl⟩ hu hf hd⟩
    · by_cases hs : s.phase = .decode
      · exact ⟨_, step_rowBuilt hq hp hy (Nat.not_lt.1 hpl) hs⟩
      · exact ⟨_, step_rowPassed hq hp hy (Nat.not_lt.1 hpl) hs⟩
  · exact ⟨_, step_passEnd hq hp (Nat.not_lt.1 hy)⟩

end

/-! ## The steps outside the loops -/

theorem step_enterPalExtract {s : State} (hq : s.host = []) (hb : isBusy s = true) (hph : s.phase = .palExtract)
    (hpt : s.point = .enter) : step s = outcomeOf (enterPalExtract s) := by
  rw [step_phase hq hb, planPhase, hph, hpt]; rfl

theorem step_dryRun {s : State} {h : Header} (hq : s.host = []) (hb : isBusy s = true) (hph : s.phase = .palExtract)
    (hpt : s.point = .enter) (hh : s.hdr = some h) (hv : versionGate h = true) : step s = .next (startPass s) := by
  rw [step_enterPalExtract hq hb hph hpt, outcomeOf_next, enterPalExtract, bind_ok]
  exact ⟨h, header_ok.2 hh, by rw [if_pos hv]; rfl⟩

theorem step_noDryRun {s : State} {h : Header} (hq : s.host = []) (hb : isBusy s = true) (hph : s.phase = .palExtract)
    (hpt : s.point = .enter) (hh : s.hdr = some h) (hv : versionGate h = false) :
    step s = .next { s with point := .search } := by
  rw [step_enterPalExtract hq hb hph hpt, outcomeOf_next, enterPalExtract, bind_ok]
  exact ⟨h, header_ok.2 hh, by rw [hv]; rfl⟩

theorem step_searched {s : State} {h : Header} {found : Option (List Rgb × PalSrc)} (hq : s.host = []) (hb : isBusy s = true)
    (hph : s.phase = .palExtract) (hpt : s.point = .search) (hh : s.hdr = some h) (hf : findPalette h s = .ok found) :
    step s = .next (recordPalette found s) := by
  rw [step_searchPalette hq hb hph hpt, searchPalette_ok hh hf, outcomeOf_ok]

/-- At FORMAT_SELECT the step is the row the key decodes to. -/
theorem step_selects {s : State} {h : Header} (hq : s.host = []) (hb : isBusy s = true) (hph : s.phase = .formatSelect)
    (hh : s.hdr = some h) : step s = exec (decodeKey (stateKey h s)) s := by
  rw [step_phase hq hb, planPhase, hph, planFormat, header_ok.2 hh]; rfl

theorem step_formatSelected {s : State} {h : Header} (hq : s.host = []) (hb : isBusy s = true) (hph : s.phase = .formatSelect)
    (hh : s.hdr = some h) : step s = .next (formatSelected (chosenFormat s.status.palPresent h) s) := by
  rw [step_selects hq hb hph hh]
  exact exec_selects (formatOf_stateKey h s) (by rw [hph]; decide)

theorem step_realPass {s : State} (hq : s.host = []) (hb : isBusy s = true) (hph : s.phase = .decode) (hpt : s.point = .enter) :
    step s = .next (startPass s) := by
  rw [step_phase hq hb, planPhase, hph, hpt]; rfl

/-! ## Ready -/

/-- What a busy block needs of its registers, phase by phase. -/
structure ReadyRegisters (s : State) : Prop where
  hdr : s.phase ≠ .init → s.phase ≠ .hdrParse → s.hdr.isSome = true
  dims : s.phase ≠ .init → s.phase ≠ .hdrParse → s.phase ≠ .validate → s.phase ≠ .dims → s.dims.isSome = true
  boundary : s.phase = .palExtract → s.point = .search → ∀ h ∈ s.hdr, versionGate h = true → s.boundary.isSome = true
  fileFits : s.phase = .init ∨ s.phase = .hdrParse → ∀ h, readHeader s = .ok h → holdsHeader s.params h = true
  headerFits : s.phase = .validate ∨ s.phase = .dims → ∀ h ∈ s.hdr, holdsHeader s.params h = true

theorem ready_iff {s : State} : Ready s ↔ s.host = [] ∧ FileWritten s ∧ (isBusy s = true → ReadyRegisters s) := by
  refine and_congr_right fun _ => and_congr_right fun _ => imp_congr_right fun _ => ⟨?_, ?_⟩
  · rintro ⟨h1, h2, h3, h4, h5⟩
    exact ⟨h1, h2, h3, h4, h5⟩
  · rintro ⟨h1, h2, h3, h4, h5⟩
    exact ⟨h1, h2, h3, h4, h5⟩

/-- A phase from PAL_EXTRACT on, other than the search, needs only the header and the dimensions. -/
theorem readyRegisters_of_sized {s : State} (hh : s.hdr.isSome = true) (hd : s.dims.isSome = true)
    (hph : s.phase ≠ .init ∧ s.phase ≠ .hdrParse ∧ s.phase ≠ .validate ∧ s.phase ≠ .dims)
    (hb : s.phase = .palExtract → s.point = .search → ∀ h ∈ s.hdr, versionGate h = true → s.boundary.isSome = true) :
    ReadyRegisters s :=
  ⟨fun _ _ => hh, fun _ _ _ _ => hd, hb, fun h => (h.elim hph.1 hph.2.1).elim, fun h => (h.elim hph.2.2.1 hph.2.2.2).elim⟩

/-- A ready block takes its step: no read of FILE and of a register stops it. -/
theorem ready_steps {s : State} (hr : Ready s) : ∃ t, step s = .next t := by
  obtain ⟨hq, hw, hregs⟩ := ready_iff.1 hr
  cases hb : isBusy s with
  | false => exact ⟨s, by rw [step_block hq, planBlock, hb]; rfl⟩
  | true =>
    have regs := hregs hb
    have header : s.phase ≠ .init ∧ s.phase ≠ .hdrParse → ∃ h, s.hdr = some h := fun h =>
      Option.isSome_iff_exists.1 (regs.hdr h.1 h.2)
    have dims : s.phase ≠ .init ∧ s.phase ≠ .hdrParse ∧ s.phase ≠ .validate ∧ s.phase ≠ .dims → ∃ d, s.dims = some d := fun h =>
      Option.isSome_iff_exists.1 (regs.dims h.1 h.2.1 h.2.2.1 h.2.2.2)
    cases hph : s.phase with
    | init => exact ⟨_, step_init hq hb hph⟩
    | hdrParse =>
      rw [step_hdrParse hq hb hph]
      rcases Nat.lt_or_ge s.fileLen 128 with hl | hl
      · exact ⟨_, by rw [hdrParse_short hl, outcomeOf_ok]⟩
      · obtain ⟨h, hread⟩ := readHeader_written hw hl
        exact ⟨_, outcomeOf_next.2 ((hdrParse_long_ok hl).2 ⟨h, hread, rfl⟩)⟩
    | validate =>
      obtain ⟨h, hh⟩ := header (by simp [hph])
      rw [step_validate hq hb hph]
      by_cases hm : h.manufacturer.toNat = 10
      · exact ⟨_, outcomeOf_next.2 (validate_accepts hh hm)⟩
      · exact ⟨_, outcomeOf_next.2 (validate_rejects hh hm)⟩
    | dims =>
      obtain ⟨h, hh⟩ := header (by simp [hph])
      have hfits := regs.headerFits (.inr hph) h hh
      exact ⟨_, by rw [step_dims hq hb hph, computeDims_holds hh hfits, outcomeOf_ok]⟩
    | palExtract =>
      obtain ⟨h, hh⟩ := header (by simp [hph])
      obtain ⟨d, hd⟩ := dims (by simp [hph])
      cases hpt : s.point with
      | enter =>
        cases hv : versionGate h with
        | true => exact ⟨_, step_dryRun hq hb hph hpt hh hv⟩
        | false => exact ⟨_, step_noDryRun hq hb hph hpt hh hv⟩
      | scan => exact inPass_steps hq ⟨hb, hh, hd, .inl ⟨hph, hpt⟩⟩ hw
      | search =>
        obtain ⟨found, hf⟩ := findPalette_written hw (regs.boundary hph hpt h hh)
        exact ⟨_, step_searched hq hb hph hpt hh hf⟩
    | formatSelect =>
      obtain ⟨h, hh⟩ := header (by simp [hph])
      exact ⟨_, step_formatSelected hq hb hph hh⟩
    | decode =>
      obtain ⟨h, hh⟩ := header (by simp [hph])
      obtain ⟨d, hd⟩ := dims (by simp [hph])
      by_cases hpt : s.point = .enter
      · exact ⟨_, step_realPass hq hb hph hpt⟩
      · exact inPass_steps hq ⟨hb, hh, hd, .inr ⟨hph, hpt⟩⟩ hw
    | finish => exact ⟨_, step_finish hq hb hph⟩

theorem InPass.phase {h : Header} {d : Dims} {s : State} (hp : InPass h d s) :
    s.phase ≠ .init ∧ s.phase ≠ .hdrParse ∧ s.phase ≠ .validate ∧ s.phase ≠ .dims := by
  rcases hp.where_ with ⟨hph, -⟩ | ⟨hph, -⟩ <;> simp [hph]

/-- The loops keep the pass they run in. -/
theorem LoopStep.keeps_inPass {h : Header} {d : Dims} {s t : State} (hl : LoopStep h d s t) (hp : InPass h d s) : InPass h d t := by
  rw [hl.frame]
  exact ⟨hp.busy, hp.hdr, hp.dims, hp.where_⟩

theorem InPass.not_search {h : Header} {d : Dims} {s : State} (hp : InPass h d s) {p : Prop} (hph : s.phase = .palExtract)
    (hpt : s.point = .search) : p := by
  rcases hp.where_ with ⟨-, h⟩ | ⟨h, -⟩
  · rw [hpt] at h; cases h
  · rw [hph] at h; cases h

theorem Advance.keeps_readyRegisters {s t : State} (ha : Advance s t) (hr : ReadyRegisters s) (hb : isBusy t = true) :
    ReadyRegisters t := by
  have header : s.phase ≠ .init ∧ s.phase ≠ .hdrParse → s.hdr.isSome = true := fun h => hr.hdr h.1 h.2
  have dims : s.phase ≠ .init ∧ s.phase ≠ .hdrParse ∧ s.phase ≠ .validate ∧ s.phase ≠ .dims → s.dims.isSome = true := fun h =>
    hr.dims h.1 h.2.1 h.2.2.1 h.2.2.2
  cases ha with
  | init hph => exact ⟨fun _ h => absurd rfl h, fun _ h => absurd rfl h, nofun, fun _ => hr.fileFits (.inl hph), nofun⟩
  | tooShort => cases hb
  | rejected => cases hb
  | finished => cases hb
  | parsed h hph hl hread =>
    refine ⟨fun _ _ => rfl, fun _ _ h => absurd rfl h, nofun, nofun, fun _ h' hh' => ?_⟩
    cases hh'
    exact hr.fileFits (.inr hph) h hread
  | accepted hph hh => exact ⟨fun _ _ => hh, fun _ _ _ h => absurd rfl h, nofun, nofun, fun _ => hr.headerFits (.inl hph)⟩
  | sized h hph hh => exact readyRegisters_of_sized (header (by simp [hph])) rfl (by simp) nofun
  | dryRun hph => exact readyRegisters_of_sized (header (by simp [hph])) (dims (by simp [hph])) (by simp [hph]) nofun
  | noDryRun h hph hpt hh hv =>
    refine readyRegisters_of_sized (header (by simp [hph])) (dims (by simp [hph])) (by simp [hph]) fun _ _ h' hh' hv' => ?_
    obtain rfl : h = h' := Option.some.inj (hh.symm.trans hh')
    exact absurd (hv.symm.trans hv') Bool.false_ne_true
  | searched h found hph =>
    cases found <;> exact readyRegisters_of_sized (header (by simp [hph])) (dims (by simp [hph])) (by simp) nofun
  | selected h hph =>
    rw [formatSelected_eq]
    exact readyRegisters_of_sized (header (by simp [hph])) (dims (by simp [hph])) (by simp) nofun
  | realPass hph => exact readyRegisters_of_sized (header (by simp [hph])) (dims (by simp [hph])) (by simp [hph]) (by simp [hph])
  | loop h d t hp hl =>
    have hp' := hl.keeps_inPass hp
    exact readyRegisters_of_sized (hp'.hdr ▸ rfl) (hp'.dims ▸ rfl) hp'.phase fun hph hpt => hp'.not_search hph hpt
  | dryRunEnd h d hp => exact readyRegisters_of_sized (hp.hdr ▸ rfl) (hp.dims ▸ rfl) hp.phase fun _ _ _ _ _ => rfl
  | realPassEnd h d hp => exact readyRegisters_of_sized (hp.hdr ▸ rfl) (hp.dims ▸ rfl) (by simp) nofun

theorem Advance.keeps_fileWritten {s t : State} (ha : Advance s t) (hw : FileWritten s) : FileWritten t := by
  obtain ⟨-, hlen, hfile, -, -⟩ := ha.frame
  unfold FileWritten
  rw [hlen, hfile]
  exact hw

theorem Advance.keeps_ready {s t : State} (ha : Advance s t) (hb : isBusy s = true) (hr : Ready s) : Ready t := by
  obtain ⟨hq, hw, hregs⟩ := ready_iff.1 hr
  obtain ⟨-, -, -, hhost, -⟩ := ha.frame
  exact ready_iff.2 ⟨hhost.trans hq, ha.keeps_fileWritten hw, ha.keeps_readyRegisters (hregs hb)⟩

end Sys2Proof.Machine
end

section
/-! Every decode of a written file ends (40_sequencer_host_commands.md R130, 60_exceptions.md R227): each step of a ready block spends
some of its budget. -/

namespace Sys2Proof.Machine

/-! ## The budget -/

theorem stepBudget_of_not_busy {s : State} (hb : isBusy s = false) : stepBudget s = 0 := by
  rw [stepBudget, if_neg (by rw [hb]; exact Bool.false_ne_true)]

theorem stepBudget_pos {s : State} (hb : isBusy s = true) : 0 < stepBudget s := by
  rw [stepBudget, if_pos hb]
  cases s.phase <;> cases s.point <;> exact Nat.succ_pos _

/-- In a pass the budget is what the pass still has, and the second pass after a dry run. -/
theorem InPass.stepBudget_eq {h : Header} {d : Dims} {s : State} (hp : InPass h d s) :
    stepBudget s = passLeft h d s +
      if s.phase = .decode then 4 else passCost s.fileLen d.rows.toNat h.numPlanes.toNat + 8 := by
  rw [stepBudget, if_pos hp.busy, hp.hdr, hp.dims]
  rcases hp.where_ with ⟨hph, hpt⟩ | ⟨hph, hpt⟩
  · simp [hph, hpt, Nat.add_assoc]
  · cases hpt' : s.point with
    | enter => exact absurd hpt' hpt
    | scan => simp [hph]
    | search => simp [hph]

/-- A scanline has one step for its end and one for each call (43_rle_decode.md section 1). -/
theorem rowsLeft_succ {rows y planes : Nat} (hy : y < rows) :
    (rows - y) * (planes + 1) = (rows - (y + 1)) * (planes + 1) + (planes + 1) := by
  rw [← Nat.succ_mul]
  congr 1
  omega

/-- Each step of the loops leaves the pass less to do. -/
theorem LoopStep.passLeft_lt {h : Header} {d : Dims} {s t : State} (hl : LoopStep h d s t) (hb : LoopBounds h d s) :
    passLeft h d t < passLeft h d s := by
  have hplanes := hb.p
  cases hl with
  | unit i hin hi hn hcur =>
    have hlen := unitBytes_eq i
    show s.fileLen - (s.cursor + unitBytes i) + _ < s.fileLen - s.cursor + _
    refine Nat.add_lt_add_right ?_ _
    omega
  | truncated hin hn hcur =>
    show s.fileLen - s.fileLen + _ < s.fileLen - s.cursor + _
    refine Nat.add_lt_add_right ?_ _
    omega
  | callEnd hin hu =>
    have hrow := rowsLeft_succ (planes := h.numPlanes.toNat) hin.1
    have hp := hin.2
    rw [passLeft, passLeft, endCall_fileLen, endCall_cursor, endCall_y, endCall_p, toNat_succ_of_lt hp, hrow]
    omega
  | rowPassed hy hpl hs =>
    have hrow := rowsLeft_succ (planes := h.numPlanes.toNat) hy
    rw [passLeft, passLeft, nextRow_fileLen, nextRow_cursor, nextRow_y, nextRow_p, toNat_succ_of_lt hy, hrow]
    simp only [BitVec.toNat_ofNat, BitVec.ofNat_eq_ofNat]
    omega
  | rowBuilt hy hpl hs =>
    have hrow := rowsLeft_succ (planes := h.numPlanes.toNat) hy
    rw [passLeft, passLeft, rowAssembled, nextRow_fileLen, nextRow_cursor, nextRow_y, nextRow_p, toNat_succ_of_lt hy, hrow]
    simp only [BitVec.toNat_ofNat, BitVec.ofNat_eq_ofNat]
    omega

/-- A pass that begins has its whole cost before it. -/
theorem passLeft_startPass (h : Header) (d : Dims) (s : State) :
    passLeft h d (startPass s) = passCost s.fileLen d.rows.toNat h.numPlanes.toNat := rfl

/-- The header fields' maxima bound the cost of a pass. -/
theorem passCost_dimsOf_le (len : Nat) (h : Header) :
    passCost len (dimsOf h).rows.toNat h.numPlanes.toNat ≤ passCost len 65536 255 := by
  have hrows : (dimsOf h).rows.toNat ≤ 65536 := by
    have hle := extent_le h.ymin h.ymax
    rw [dimsOf, BitVec.toNat_ofNat, Nat.mod_eq_of_lt (by omega)]
    exact hle
  have hplanes : h.numPlanes.toNat + 1 ≤ 255 + 1 := h.numPlanes.isLt
  exact Nat.add_le_add_left (Nat.mul_le_mul hrows hplanes) _

theorem Advance.stepBudget_lt {s t : State} (ha : Advance s t) (hb : isBusy s = true) (hr : ReadyRegisters s) (hi : InRange s) :
    stepBudget t < stepBudget s := by
  have stopped : isBusy t = false → stepBudget t < stepBudget s := fun h => by
    rw [stepBudget_of_not_busy h]; exact stepBudget_pos hb
  have sized : s.phase ≠ .init ∧ s.phase ≠ .hdrParse ∧ s.phase ≠ .validate ∧ s.phase ≠ .dims →
      ∃ h d, s.hdr = some h ∧ s.dims = some d := fun hph => by
    obtain ⟨h, hh⟩ := Option.isSome_iff_exists.1 (hr.hdr hph.1 hph.2.1)
    obtain ⟨d, hd⟩ := Option.isSome_iff_exists.1 (hr.dims hph.1 hph.2.1 hph.2.2.1 hph.2.2.2)
    exact ⟨h, d, hh, hd⟩
  cases ha with
  | tooShort => exact stopped rfl
  | rejected => exact stopped rfl
  | finished => exact stopped rfl
  | init hph =>
    have hb' : isBusy (initDecode s) = true := hb
    rw [stepBudget, stepBudget, if_pos hb, if_pos hb']
    simp [hph]
  | parsed h hph =>
    have hb' : isBusy (goPhase .validate { s with hdr := some h }) = true := hb
    rw [stepBudget, stepBudget, if_pos hb, if_pos hb']
    simp [hph]
  | accepted hph =>
    have hb' : isBusy (goPhase .dims { s with status := { s.status with hdrValid := true } }) = true := hb
    rw [stepBudget, stepBudget, if_pos hb, if_pos hb']
    simp [hph]
  | sized h hph hh =>
    have hb' : isBusy (recordDims h s) = true := hb
    have hmost := passCost_dimsOf_le s.fileLen h
    rw [stepBudget, stepBudget, if_pos hb, if_pos hb']
    simp only [hph, recordDims_phase, recordDims_point, recordDims_hdr, recordDims_dims, recordDims_fileLen, hh]
    omega
  | dryRun hph hpt =>
    obtain ⟨h, d, hh, hd⟩ := sized (by simp [hph])
    have hp : InPass h d (startPass s) := ⟨hb, hh, hd, .inl ⟨hph, rfl⟩⟩
    rw [hp.stepBudget_eq, passLeft_startPass, stepBudget, if_pos hb]
    simp [hph, hpt, hh, hd]
    omega
  | noDryRun h hph hpt hh =>
    have hb' : isBusy { s with point := .search } = true := hb
    obtain ⟨h, d, hh, hd⟩ := sized (by simp [hph])
    rw [stepBudget, stepBudget, if_pos hb, if_pos hb']
    simp [hph, hpt, hh, hd]
    omega
  | searched h found hph hpt =>
    have hb' : isBusy (recordPalette found s) = true := by cases found <;> exact hb
    rw [stepBudget, stepBudget, if_pos hb, if_pos hb']
    cases found <;> simp [hph, hpt]
  | selected h hph =>
    have hb' : isBusy (formatSelected (chosenFormat s.status.palPresent h) s) = true := by rw [formatSelected_eq]; exact hb
    rw [stepBudget, stepBudget, if_pos hb, if_pos hb', formatSelected_eq]
    simp [hph]
  | realPass hph hpt =>
    obtain ⟨h, d, hh, hd⟩ := sized (by simp [hph])
    have hp : InPass h d (startPass s) := ⟨hb, hh, hd, .inr ⟨hph, by simp⟩⟩
    rw [hp.stepBudget_eq, passLeft_startPass, stepBudget, if_pos hb]
    simp [hph, hpt, hh, hd]
  | loop h d t hp hl =>
    have hlt := hl.passLeft_lt (hp.bounds hi).2.2
    have hsame : t.phase = s.phase ∧ t.fileLen = s.fileLen := by rw [hl.frame]; exact ⟨rfl, rfl⟩
    rw [(hl.keeps_inPass hp).stepBudget_eq, hp.stepBudget_eq, hsame.1, hsame.2]
    omega
  | dryRunEnd h d hp hy hph =>
    have hb' : isBusy (closeDryRun s) = true := hb
    rw [hp.stepBudget_eq, stepBudget, if_pos hb']
    simp [hph, hp.hdr, hp.dims]
    omega
  | realPassEnd h d hp hy hph =>
    have hb' : isBusy (goPhase .finish s) = true := hb
    rw [hp.stepBudget_eq, stepBudget, if_pos hb']
    simp [hph]

/-! ## Liveness -/

/-- Settles O56: a ready block steps, and whatever its step leaves is ready, in range and nearer its end. -/
theorem readyBlockAlwaysSteps : Obligations.ReadyBlockAlwaysSteps := by
  intro s hr
  obtain ⟨t, hstep⟩ := ready_steps hr
  have hbudget := (ready_iff.1 hr).2.2
  rw [step_block hr.1] at hstep
  refine ⟨t, (step_block hr.1).trans hstep, ?_⟩
  rcases (planBlock_next hstep).advance with ⟨hb, rfl⟩ | ⟨hb, ha⟩
  · exact ⟨hr, fun hi => ⟨hi, fun h => by rw [hb] at h; cases h⟩⟩
  · exact ⟨ha.keeps_ready hb hr, fun hi => ⟨ha.keeps_inRange hb hi, fun _ => ha.stepBudget_lt hb (hbudget hb) hi⟩⟩

/-- A run's first step. -/
theorem run_first {M : Host.Core} {s t : M.State} (h : M.step s = .next t) (k : Nat) : M.run (k + 1) s = M.run k t := by
  rw [Host.Core.run, h]

theorem run_succ {s t : State} (h : step s = .next t) (k : Nat) : Host.Core.run core (k + 1) s = Host.Core.run core k t :=
  run_first (M := core) h k

/-- Settles O57, by induction on the budget. -/
theorem everyDecodeEnds : Obligations.EveryDecodeEnds := by
  intro s hr hi
  induction hbudget : stepBudget s using Nat.strong_induction_on generalizing s with
  | _ budget ih =>
    cases hb : isBusy s with
    | false => exact ⟨0, s, Nat.zero_le _, rfl, hb, nofun⟩
    | true =>
      obtain ⟨t, hstep, hready, hkeep⟩ := readyBlockAlwaysSteps s hr
      obtain ⟨hrange, hspend⟩ := hkeep hi
      have hlt : stepBudget t < budget := hbudget ▸ hspend hb
      rcases (step_advance hr.1 hb hstep).state hb with hbusy | hended
      · obtain ⟨k, u, hk, hrun, hstop, hend⟩ := ih _ hlt t hready hrange rfl
        exact ⟨k + 1, u, by omega, by rw [run_succ hstep, hrun], hstop, fun _ => hend hbusy⟩
      · have hstop : isBusy t = false := isBusy_false.2 (by rcases hended with h | h <;> rw [h] <;> decide)
        exact ⟨1, t, by omega, run_succ hstep 0, hstop, fun _ => hended⟩

end Sys2Proof.Machine
end

section
/-! The dry run and the real pass (70_reset_and_hazards.md R248): over one file they take the same steps, so the CURSOR a decode ends at
is the BOUNDARY its dry run recorded. -/

namespace Sys2Proof.Machine

/-! ## In step -/

theorem unitCopies_congr {a b : State} (hh : b.hdr = a.hdr) (hn : b.n = a.n) (i : Instr) : unitCopies i b = unitCopies i a := by
  unfold unitCopies; rw [hh, hn]

section
variable {a b : State} {h : Header} {d : Dims} (hs : SamePlace a b) (hh : a.hdr = some h) (hd : a.dims = some d)
include hs hh hd

theorem SamePlace.dryInPass : InPass h d a := ⟨hs.dry.1, hh, hd, .inl hs.dry.2⟩

theorem SamePlace.realInPass : InPass h d b :=
  ⟨hs.real.1, hs.header.2.trans hh, hs.dims.2.trans hd, .inr ⟨hs.real.2.1, by rw [hs.real.2.2]; decide⟩⟩

omit hh hd in
/-- Loop steps to equal places keep the two passes in step. -/
theorem SamePlace.loop {a' b' : State} (ha : LoopStep h d a a') (hb : LoopStep h d b b')
    (hplace : b'.cursor = a'.cursor ∧ b'.n = a'.n ∧ b'.p = a'.p ∧ b'.y = a'.y) : SamePlace a' b' where
  dry := by rw [ha.frame]; exact hs.dry
  real := by rw [hb.frame]; exact hs.real
  quiet := by rw [ha.frame, hb.frame]; exact hs.quiet
  header := by rw [ha.frame, hb.frame]; exact hs.header
  dims := by rw [ha.frame, hb.frame]; exact hs.dims
  input := by rw [ha.frame, hb.frame]; exact hs.input
  place := hplace

/-- Where the dry run has a unit due, the real pass has the same unit due. -/
theorem SamePlace.unit_steps (hw : FileWritten a) (hin : InCall h d a) (hinb : InCall h d b) (hu : unitDue h a = true)
    (hub : unitDue h b = true) : ∃ a' b', step a = .next a' ∧ step b = .next b' ∧ SamePlace a' b' := by
  obtain ⟨hqa, hqb⟩ := hs.quiet
  obtain ⟨hfile, hlen⟩ := hs.input
  obtain ⟨hcur, hn, hpl, hy⟩ := hs.place
  have hpa := hs.dryInPass hh hd
  have hpb := hs.realInPass hh hd
  obtain ⟨bytes, hf⟩ := fetchUnit_written hw (unitDue_iff.1 hu).2
  have hfb : fetchUnit b = .ok bytes := (fetchUnit_alike (fileByte_alike hlen fun _ _ => by rw [hfile]) hlen hcur).trans hf
  cases hdec : decodeUnit bytes with
  | error r =>
    refine ⟨_, _, step_truncated hqa hpa hin hu hf hdec, step_truncated hqb hpb hinb hub hfb hdec, ?_⟩
    obtain ⟨hna, hca⟩ := unitDue_iff.1 hu
    obtain ⟨hnb, hcb⟩ := unitDue_iff.1 hub
    exact hs.loop (.truncated hin hna (truncated_at_end hca hf hdec)) (.truncated hinb hnb (truncated_at_end hcb hfb hdec))
      ⟨hlen, hn, hpl, hy⟩
  | ok ir =>
    obtain ⟨i, rest⟩ := ir
    have hi := isUnitInstr_decodeUnit hdec
    obtain ⟨hna, hca⟩ := unit_fits hh hu hf hdec
    obtain ⟨hnb, hcb⟩ := unit_fits hpb.hdr hub hfb hdec
    refine ⟨_, _, step_unit hqa hpa hin hu hf hdec, step_unit hqb hpb hinb hub hfb hdec, ?_⟩
    refine hs.loop (.unit i hin hi hna hca) (.unit i hinb hi hnb hcb) ⟨?_, ?_, hpl, hy⟩
    · exact congrArg (· + unitBytes i) hcur
    · rw [appended, appended, appendUnit_n, appendUnit_n, unitCopies_congr (hpb.hdr.trans hh.symm) hn, hn]

end

/-- Settles O58: at every point of the loops both passes test the same registers and bytes. -/
theorem passesStayInStep : Obligations.PassesStayInStep := by
  intro a b hs hw hc
  obtain ⟨h, hh⟩ := Option.isSome_iff_exists.1 hs.header.1
  obtain ⟨d, hd⟩ := Option.isSome_iff_exists.1 hs.dims.1
  have hpa := hs.dryInPass hh hd
  have hpb := hs.realInPass hh hd
  obtain ⟨hqa, hqb⟩ := hs.quiet
  obtain ⟨hcur, hn, hpl, hy⟩ := hs.place
  have hda : a.phase ≠ .decode := by rw [hs.dry.2.1]; decide
  have hdb : b.phase = .decode := hs.real.2.1
  have hdue : unitDue h b = unitDue h a := by rw [unitDue, unitDue, hn, hcur, hs.input.2]
  by_cases hrow : a.y.toNat < d.rows.toNat
  · have hrowb : b.y.toNat < d.rows.toNat := hy ▸ hrow
    by_cases hplane : a.p.toNat < h.numPlanes.toNat
    · have hinb : InCall h d b := ⟨hrowb, hpl ▸ hplane⟩
      cases hu : unitDue h a with
      | true =>
        obtain ⟨a', b', hsa, hsb, hs'⟩ := hs.unit_steps hh hd hw ⟨hrow, hplane⟩ hinb hu (hdue.trans hu)
        exact ⟨a', b', hsa, hsb, .inl hs'⟩
      | false =>
        refine ⟨_, _, step_callEnd hqa hpa ⟨hrow, hplane⟩ hu, step_callEnd hqb hpb hinb (hdue.trans hu), .inl ?_⟩
        refine hs.loop (.callEnd ⟨hrow, hplane⟩ hu) (.callEnd hinb (hdue.trans hu)) ?_
        simp [hcur, hpl, hy]
    · have hplaneb : h.numPlanes.toNat ≤ b.p.toNat := hpl ▸ Nat.not_lt.1 hplane
      refine ⟨_, _, step_rowPassed hqa hpa hrow (Nat.not_lt.1 hplane) hda, step_rowBuilt hqb hpb hrowb hplaneb hdb, .inl ?_⟩
      refine hs.loop (.rowPassed hrow (Nat.not_lt.1 hplane) hda) (.rowBuilt hrowb hplaneb hdb) ⟨hcur, rfl, rfl, ?_⟩
      exact congrArg (· + 1) hy
  · have hrowb : d.rows.toNat ≤ b.y.toNat := hy ▸ Nat.not_lt.1 hrow
    have hdry : endPass a = closeDryRun a := if_neg (mt storing_iff.1 hda)
    have hreal : endPass b = goPhase .finish b := if_pos (storing_iff.2 hdb)
    refine ⟨_, _, hdry ▸ step_passEnd hqa hpa (Nat.not_lt.1 hrow), hreal ▸ step_passEnd hqb hpb hrowb, .inr ?_⟩
    exact ⟨rfl, rfl, rfl, hcur⟩

/-! ## Whole passes -/

/-- One state is reached from another by steps. -/
abbrev Reaches : State → State → Prop := Relation.ReflTransGen fun s t => step s = .next t

theorem Reaches.run {s t : State} (h : Reaches s t) : ∃ k, Host.Core.run core k s = .next t := by
  induction h using Relation.ReflTransGen.head_induction_on with
  | refl => exact ⟨0, rfl⟩
  | head hstep _ ih =>
    obtain ⟨k, hk⟩ := ih
    exact ⟨k + 1, (run_succ hstep k).trans hk⟩

/-- The dry run from `a` ends in `a'`, at offset `e`. -/
structure DryRunEnds (a : State) (e : Nat) (a' : State) : Prop where
  reaches : Reaches a a'
  ready : Ready a'
  place : isBusy a' = true ∧ a'.phase = .palExtract ∧ a'.point = .search
  boundary : a'.boundary = some e ∧ a'.status.boundaryValid = true
  input : a'.hdr = a.hdr ∧ a'.dims = a.dims ∧ a'.file = a.file ∧ a'.fileLen = a.fileLen

/-- The real pass from `b` ends in `b'`, at offset `e`. -/
structure RealPassEnds (b : State) (e : Nat) (b' : State) : Prop where
  reaches : Reaches b b'
  place : isBusy b' = true ∧ b'.phase = .finish ∧ b'.host = []
  cursor : b'.cursor = e
  boundary : b'.boundary = b.boundary ∧ b'.status.boundaryValid = b.status.boundaryValid

section
variable {a b : State} {h : Header} {d : Dims}

/-- A step of the dry run within its loops is one of the real pass, too. -/
theorem SamePlace.step_loop (hs : SamePlace a b) (hh : a.hdr = some h) (hd : a.dims = some d) (hw : FileWritten a)
    (hc : a.cursor ≤ a.fileLen) {a' : State} (hstep : step a = .next a') (hl : LoopStep h d a a') :
    ∃ b', step b = .next b' ∧ LoopStep h d b b' ∧ SamePlace a' b' := by
  obtain ⟨a'', b', hsa, hsb, hend⟩ := passesStayInStep a b hs hw hc
  obtain rfl : a' = a'' := Host.Outcome.next.inj (hstep.symm.trans hsa)
  have hpb := hs.realInPass hh hd
  have hpoint : a'.point = .scan := by rw [hl.frame]; exact hs.dry.2.2
  have hs' : SamePlace a' b' := hend.resolve_right fun h => by rw [hpoint] at h; cases h.1
  refine ⟨b', hsb, (hpb.advance (step_advance hs.quiet.2 hpb.busy hsb)).resolve_right fun ⟨_, heq⟩ => ?_, hs'⟩
  have hphase := hs'.real.2.1
  rw [heq, endPass, if_pos (storing_iff.2 hs.real.2.1)] at hphase
  cases hphase

/-- When the dry run ends, so does the real pass. -/
theorem SamePlace.step_end (hs : SamePlace a b) (hh : a.hdr = some h) (hd : a.dims = some d) (hy : d.rows.toNat ≤ a.y.toNat) :
    RealPassEnds b a.cursor (goPhase .finish b) where
  reaches := by
    have hreal : endPass b = goPhase .finish b := if_pos (storing_iff.2 hs.real.2.1)
    exact .single (hreal ▸ step_passEnd hs.quiet.2 (hs.realInPass hh hd) (hs.place.2.2.2 ▸ hy))
  place := ⟨hs.real.1, rfl, hs.quiet.2⟩
  cursor := hs.place.1
  boundary := ⟨rfl, rfl⟩

end

/-- The dry run ends, and every real pass that starts where it did ends at the same offset. -/
theorem dryRun_ends {a : State} (hdry : isBusy a = true ∧ a.phase = .palExtract ∧ a.point = .scan) (hr : Ready a)
    (hi : InRange a) :
    ∃ e a', DryRunEnds a e a' ∧ ∀ b, SamePlace a b → ∃ b', RealPassEnds b e b' := by
  induction hbudget : stepBudget a using Nat.strong_induction_on generalizing a with
  | _ budget ih =>
    obtain ⟨hb, hph, hpt⟩ := hdry
    have hq := hr.1
    have regs := (ready_iff.1 hr).2.2 hb
    obtain ⟨h, hh⟩ := Option.isSome_iff_exists.1 (regs.hdr (by simp [hph]) (by simp [hph]))
    obtain ⟨d, hd⟩ := Option.isSome_iff_exists.1 (regs.dims (by simp [hph]) (by simp [hph]) (by simp [hph]) (by simp [hph]))
    have hp : InPass h d a := ⟨hb, hh, hd, .inl ⟨hph, hpt⟩⟩
    obtain ⟨-, hc, -⟩ := hp.bounds hi
    obtain ⟨a₁, hstep, hready, hkeep⟩ := readyBlockAlwaysSteps a hr
    obtain ⟨hrange, hspend⟩ := hkeep hi
    rcases hp.advance (step_advance hq hb hstep) with hl | ⟨hy, heq⟩
    · have hdry₁ : isBusy a₁ = true ∧ a₁.phase = .palExtract ∧ a₁.point = .scan := by
        rw [hl.frame]; exact ⟨hb, hph, hpt⟩
      obtain ⟨e, a', hend, hreal⟩ := ih _ (hbudget ▸ hspend hb) hdry₁ hready hrange rfl
      have hinput : a₁.hdr = a.hdr ∧ a₁.dims = a.dims ∧ a₁.file = a.file ∧ a₁.fileLen = a.fileLen := by
        rw [hl.frame]; exact ⟨rfl, rfl, rfl, rfl⟩
      obtain ⟨hhdr, hdims, hfile, hlen⟩ := hend.input
      refine ⟨e, a', { hend with
        reaches := .head hstep hend.reaches
        input := ⟨hhdr.trans hinput.1, hdims.trans hinput.2.1, hfile.trans hinput.2.2.1, hlen.trans hinput.2.2.2⟩ }, ?_⟩
      intro b hs
      obtain ⟨b₁, hsb, hlb, hs₁⟩ := hs.step_loop hh hd hr.2.1 hc hstep hl
      obtain ⟨b', hend'⟩ := hreal b₁ hs₁
      have hkept : b₁.boundary = b.boundary ∧ b₁.status.boundaryValid = b.status.boundaryValid := by
        rw [hlb.frame]; exact ⟨rfl, rfl⟩
      obtain ⟨hbd, hbv⟩ := hend'.boundary
      exact ⟨b', { hend' with
        reaches := .head hsb hend'.reaches
        boundary := ⟨hbd.trans hkept.1, hbv.trans hkept.2⟩ }⟩
    · have hclose : a₁ = closeDryRun a := heq.trans (if_neg (mt storing_iff.1 (by rw [hph]; decide)))
      subst hclose
      exact ⟨a.cursor, closeDryRun a, ⟨.single hstep, hready, ⟨hb, hph, rfl⟩, ⟨rfl, rfl⟩, ⟨rfl, rfl, rfl, rfl⟩⟩,
        fun b hs => ⟨_, hs.step_end hh hd hy⟩⟩

/-- The search writes the palette's registers, and FORMAT_SELECT is next. -/
theorem recordPalette_eq (found : Option (List Rgb × PalSrc)) (s : State) :
    recordPalette found s = { s with
      status := { s.status with
        palPresent := (recordPalette found s).status.palPresent, palSrc := (recordPalette found s).status.palSrc }
      palCount := (recordPalette found s).palCount
      pal := (recordPalette found s).pal
      phase := .formatSelect
      point := .enter } := by
  cases found <;> rfl

/-- From the search the decode goes on to the start of its real pass, BOUNDARY as it was. -/
theorem search_reaches_realPass {s : State} {h : Header} (hr : Ready s) (hb : isBusy s = true) (hph : s.phase = .palExtract)
    (hpt : s.point = .search) (hh : s.hdr = some h) :
    ∃ t, Reaches s t ∧ t = { startPass s with
      status := { s.status with palPresent := t.status.palPresent, palSrc := t.status.palSrc, format := t.status.format }
      palCount := t.palCount, pal := t.pal, luma := t.luma, phase := .decode } := by
  have hq := hr.1
  obtain ⟨found, hf⟩ := findPalette_written hr.2.1 (((ready_iff.1 hr).2.2 hb).boundary hph hpt h hh)
  have hrecord := step_searched hq hb hph hpt hh hf
  have hkept : (recordPalette found s).host = [] ∧ isBusy (recordPalette found s) = true ∧ (recordPalette found s).hdr = some h := by
    rw [recordPalette_eq]; exact ⟨hq, hb, hh⟩
  obtain ⟨hq₁, hb₁, hh₁⟩ := hkept
  have hselect := step_formatSelected hq₁ hb₁ (by rw [recordPalette_eq]) hh₁
  have hbegin : ∀ f, step (formatSelected f (recordPalette found s)) = .next (startPass (formatSelected f (recordPalette found s))) := by
    intro f
    rw [formatSelected_eq]
    exact step_realPass hq₁ hb₁ rfl rfl
  refine ⟨_, .head hrecord (.head hselect (.single (hbegin _))), ?_⟩
  rw [formatSelected_eq, recordPalette_eq]
  rfl

/-- Settles O59: the real pass starts where the dry run did, so it ends at the offset the dry run put into BOUNDARY. -/
theorem doneCursorIsBoundary : Obligations.DoneCursorIsBoundary := by
  intro s h hr hi hb hph hpt hh hv
  have hstart := step_dryRun hr.1 hb hph hpt hh (versionGate_iff.2 hv)
  obtain ⟨a, hstep, hready, hkeep⟩ := readyBlockAlwaysSteps s hr
  obtain rfl : startPass s = a := Host.Outcome.next.inj (hstart.symm.trans hstep)
  have hdims := ((ready_iff.1 hr).2.2 hb).dims (by simp [hph]) (by simp [hph]) (by simp [hph]) (by simp [hph])
  obtain ⟨e, a', hdry, hreal⟩ := dryRun_ends (a := startPass s) ⟨hb, hph, rfl⟩ hready (hkeep hi).1
  obtain ⟨hb', hph', hpt'⟩ := hdry.place
  obtain ⟨hhdr', hdims', hfile', hlen'⟩ := hdry.input
  obtain ⟨b, hreach, heq⟩ := search_reaches_realPass hdry.ready hb' hph' hpt' (hhdr'.trans hh)
  have hsame : SamePlace (startPass s) b := by
    rw [heq]
    exact ⟨⟨hb, hph, rfl⟩, ⟨hb', rfl, rfl⟩, ⟨hr.1, hdry.ready.1⟩, ⟨hh ▸ rfl, hhdr'⟩, ⟨hdims, hdims'⟩, ⟨hfile', hlen'⟩,
      ⟨rfl, rfl, rfl, rfl⟩⟩
  have hkept : b.boundary = a'.boundary ∧ b.status.boundaryValid = a'.status.boundaryValid := by
    rw [heq]; exact ⟨rfl, rfl⟩
  obtain ⟨b', hpass⟩ := hreal b hsame
  obtain ⟨hb'', hph'', hq''⟩ := hpass.place
  have hdone : Reaches s (finish b') :=
    .head hstart (hdry.reaches.trans (hreach.trans (hpass.reaches.tail (step_finish hq'' hb'' hph''))))
  obtain ⟨k, hk⟩ := hdone.run
  refine ⟨k, finish b', hk, rfl, ?_, ?_⟩
  · rw [finish_status]; exact hpass.boundary.2.trans (hkept.2.trans hdry.boundary.2)
  · rw [finish_boundary, finish_cursor, hpass.cursor]
    exact hpass.boundary.1.trans (hkept.1.trans hdry.boundary.1)

end Sys2Proof.Machine
end

section
/-! Bytes at or beyond FILE_LEN (20_memory.md R61): no step reads them, so none depends on them and none faults. -/

namespace Sys2Proof.Machine

/-! ## Another memory in FILE -/

/-- The same block over another FILE. -/
def withFile (f : Memory Byte) (s : State) : State := { s with file := f }

@[simp] theorem withFile_fileLen (f : Memory Byte) (s : State) : (withFile f s).fileLen = s.fileLen := rfl
@[simp] theorem withFile_params (f : Memory Byte) (s : State) : (withFile f s).params = s.params := rfl
@[simp] theorem withFile_status (f : Memory Byte) (s : State) : (withFile f s).status = s.status := rfl
@[simp] theorem withFile_phase (f : Memory Byte) (s : State) : (withFile f s).phase = s.phase := rfl
@[simp] theorem withFile_point (f : Memory Byte) (s : State) : (withFile f s).point = s.point := rfl
@[simp] theorem withFile_y (f : Memory Byte) (s : State) : (withFile f s).y = s.y := rfl
@[simp] theorem withFile_p (f : Memory Byte) (s : State) : (withFile f s).p = s.p := rfl
@[simp] theorem isBusy_withFile (f : Memory Byte) (s : State) : isBusy (withFile f s) = isBusy s := rfl
@[simp] theorem storing_withFile (f : Memory Byte) (s : State) : storing (withFile f s) = storing s := rfl
@[simp] theorem unitDue_withFile (h : Header) (f : Memory Byte) (s : State) : unitDue h (withFile f s) = unitDue h s := rfl
@[simp] theorem header_withFile (f : Memory Byte) (s : State) : header (withFile f s) = header s := rfl
@[simp] theorem dimensions_withFile (f : Memory Byte) (s : State) : dimensions (withFile f s) = dimensions s := rfl

/-- The outcome with its next state changed. -/
def mapNext (g : State → State) : Host.Outcome State Fault Refusal → Host.Outcome State Fault Refusal
  | .next s => .next (g s)
  | .fault r => .fault r
  | .refused r => .refused r

theorem outcomeOf_map (g : State → State) (r : Except Stop State) : outcomeOf (r.map g) = mapNext g (outcomeOf r) := by
  rcases r with (_ | _) | _ <;> rfl

theorem operation_map {g : State → State} {r r' : Except Stop State} (h : r' = r.map g) :
    (Plan.operation r').run = mapNext g (Plan.operation r).run := by
  rw [h]; exact outcomeOf_map g r

/-! ## Instructions do not look at FILE -/

section
variable (f : Memory Byte) (s : State)

theorem formatRow_withFile {prepare : State → State} {px : State → Nat → Option Rgb}
    (hprepare : prepare (withFile f s) = withFile f (prepare s)) (hpx : px (withFile f s) = px s) (fmt : PixelFormat) :
    formatRow fmt prepare px (withFile f s) = (formatRow fmt prepare px s).map (withFile f) := by
  rw [formatRow, formatRow, withFile_phase]
  split
  · rw [assembleRow, assembleRow, hpx, dimensions_withFile]
    cases dimensions s <;> rfl
  · rw [hprepare]; rfl

/-- An instruction does the same over any FILE. -/
theorem exec_withFile (i : Instr) : exec i (withFile f s) = mapNext (withFile f) (exec i s) := by
  have row : ∀ {prepare px} fmt, prepare (withFile f s) = withFile f (prepare s) → px (withFile f s) = px s →
      outcomeOf (formatRow fmt prepare px (withFile f s)) = mapNext (withFile f) (outcomeOf (formatRow fmt prepare px s)) :=
    fun fmt h1 h2 => (congrArg outcomeOf (formatRow_withFile f s h1 h2 fmt)).trans (outcomeOf_map _ _)
  cases i with
  | literalLow v => rfl
  | literalHigh v => rfl
  | run c v =>
    rw [exec, exec, execRun, execRun, runUnit, runUnit, header_withFile]
    cases header s with
    | ok h => rfl
    | error e => cases e <;> rfl
  | fmtRgb24 p => exact row _ rfl rfl
  | fmtIndexedViaLuma => exact row _ rfl rfl
  | fmtGray8 => exact row _ rfl rfl
  | fmtFallback p np bpp => exact row _ rfl rfl
  | start ig =>
    rw [exec, exec, execStart, execStart, withFile_status]
    split <;> rfl
  | reset st ig => rfl
  | ctrlNop ig => rfl

theorem endCall_withFile (h : Header) (d : Dims) : endCall h d (withFile f s) = withFile f (endCall h d s) := by
  cases hs : storing s with
  | false => rw [endCall_dry hs, endCall_dry ((storing_withFile f s).trans hs)]; rfl
  | true => rw [endCall_real hs, endCall_real ((storing_withFile f s).trans hs)]; rfl

theorem endPass_withFile : endPass (withFile f s) = withFile f (endPass s) := by
  rw [endPass, endPass, storing_withFile]
  split <;> rfl

end

/-! ## Operations look below FILE_LEN alone -/

section
variable {f : Memory Byte} {s : State} (hb : fileByte (withFile f s) = fileByte s)
include hb

theorem planUnit_withFile : (planUnit (withFile f s)).run = mapNext (withFile f) (planUnit s).run := by
  rw [planUnit, planUnit, fetchUnit_alike hb rfl rfl]
  cases fetchUnit s with
  | error e => exact operation_map rfl
  | ok bytes =>
    dsimp only
    cases decodeUnit bytes with
    | error r => exact operation_map rfl
    | ok ir => exact exec_withFile f s ir.1

theorem planScan_withFile (h : Header) (d : Dims) :
    (planScan h d (withFile f s)).run = mapNext (withFile f) (planScan h d s).run := by
  rw [planScan, planScan, withFile_y, withFile_p, unitDue_withFile, storing_withFile]
  split
  · split
    · split
      · exact planUnit_withFile hb
      · exact operation_map (congrArg Except.ok (endCall_withFile f s h d))
    · split
      · exact exec_withFile f s (formatInstr h s)
      · exact operation_map rfl
  · exact operation_map (congrArg Except.ok (endPass_withFile f s))

theorem planPass_withFile : (planPass (withFile f s)).run = mapNext (withFile f) (planPass s).run := by
  rw [planPass, planPass, header_withFile, dimensions_withFile]
  cases header s with
  | error e => exact operation_map rfl
  | ok h =>
    cases dimensions s with
    | error e => exact operation_map rfl
    | ok d => exact planScan_withFile hb h d

theorem hdrParse_withFile : hdrParse (withFile f s) = (hdrParse s).map (withFile f) := by
  rw [hdrParse, hdrParse, withFile_fileLen, readHeader_alike hb]
  split
  · rfl
  · cases readHeader s <;> rfl

omit hb

theorem validate_withFile : validate (withFile f s) = (validate s).map (withFile f) := by
  rw [validate, validate, header_withFile]
  cases header s with
  | error e => rfl
  | ok h =>
    show ite _ _ _ = Except.map _ (ite _ _ _)
    split <;> rfl

theorem computeDims_withFile : computeDims (withFile f s) = (computeDims s).map (withFile f) := by
  rw [computeDims, computeDims, header_withFile, withFile_params]
  cases header s with
  | error e => rfl
  | ok h =>
    show ite _ _ _ = Except.map _ (ite _ _ _)
    split <;> rfl

theorem enterPalExtract_withFile : enterPalExtract (withFile f s) = (enterPalExtract s).map (withFile f) := by
  rw [enterPalExtract, enterPalExtract, header_withFile]
  cases header s with
  | error e => rfl
  | ok h =>
    show ite _ _ _ = Except.map _ (ite _ _ _)
    split <;> rfl

theorem planFormat_withFile : (planFormat (withFile f s)).run = mapNext (withFile f) (planFormat s).run := by
  rw [planFormat, planFormat, header_withFile]
  cases header s with
  | error e => exact operation_map rfl
  | ok h => exact exec_withFile f s _

include hb

theorem searchPalette_withFile : searchPalette (withFile f s) = (searchPalette s).map (withFile f) := by
  rw [searchPalette, searchPalette, header_withFile]
  cases header s with
  | error e => rfl
  | ok h =>
    show findPalette h (withFile f s) >>= _ = (findPalette h s >>= _).map _
    rw [findPalette_alike h hb rfl rfl]
    cases findPalette h s with
    | error e => rfl
    | ok found => cases found <;> rfl

theorem planPhase_withFile : (planPhase (withFile f s)).run = mapNext (withFile f) (planPhase s).run := by
  rw [planPhase, planPhase, withFile_phase, withFile_point]
  cases s.phase with
  | init => exact operation_map rfl
  | hdrParse => exact operation_map (hdrParse_withFile hb)
  | validate => exact operation_map validate_withFile
  | dims => exact operation_map computeDims_withFile
  | palExtract =>
    cases s.point with
    | enter => exact operation_map enterPalExtract_withFile
    | scan => exact planPass_withFile hb
    | search => exact operation_map (searchPalette_withFile hb)
  | formatSelect => exact planFormat_withFile
  | decode =>
    cases s.point with
    | enter => exact operation_map rfl
    | scan => exact planPass_withFile hb
    | search => exact planPass_withFile hb
  | finish => exact operation_map rfl

/-- The block's step over a FILE that reads alike is the same step over it. -/
theorem step_withFile (hq : s.host = []) : step (withFile f s) = mapNext (withFile f) (step s) := by
  rw [step_block hq, step_block (show (withFile f s).host = [] from hq), planBlock, planBlock, isBusy_withFile]
  split
  · exact planPhase_withFile hb
  · exact operation_map rfl

end

/-- Settles O60: a byte at or beyond FILE_LEN reads alike whatever it holds, and the step over it is the same. -/
theorem bytesBeyondTheFileDoNotMatter : Obligations.BytesBeyondTheFileDoNotMatter := by
  intro s a b hq ha
  have hread : fileByte (withFile (s.file.set a b) s) = fileByte s :=
    fileByte_alike rfl fun c hc => Memory.get_set_of_ne _ _ (by omega)
  have hstep := step_withFile hread hq
  exact ⟨fun t ht => hstep.trans (by rw [ht]; rfl), fun r hr => hstep.trans (by rw [hr]; rfl)⟩

/-! ## No fault -/

theorem operation_noFault {r : Except Stop State} (h : NoFault r) (f : Fault) : (Plan.operation r).run ≠ .fault f := h.outcome f

theorem NoFault.error {α β : Type} {x : Except Stop α} {e : Stop} (hx : NoFault x) (he : x = .error e) :
    NoFault (.error e : Except Stop β) := by
  rintro f ⟨⟩
  exact hx f he

theorem error_noFault {α : Type} {e : Refusal} : NoFault (.error (.refusal e) : Except Stop α) := nofun

theorem planUnit_noFault {s : State} (hc : s.cursor < s.fileLen) (f : Fault) : (planUnit s).run ≠ .fault f := by
  unfold planUnit
  split
  · next e he => exact operation_noFault ((fetchUnit_noFault hc).error he) f
  · split
    · exact exec_noFault _ _ f
    · exact operation_noFault (.ok _) f

theorem planPass_noFault (s : State) (f : Fault) : (planPass s).run ≠ .fault f := by
  unfold planPass
  split
  · unfold planScan
    split
    · split
      · split
        · next hu => exact planUnit_noFault (unitDue_iff.1 hu).2 f
        · exact operation_noFault (.ok _) f
      · split
        · exact exec_noFault _ _ f
        · exact operation_noFault (.ok _) f
    · exact operation_noFault (.ok _) f
  · next e he => exact operation_noFault ((header_noFault s).error he) f
  · next e he _ => exact operation_noFault ((dimensions_noFault s).error he) f

theorem hdrParse_noFault (s : State) : NoFault (hdrParse s) := by
  unfold hdrParse
  split
  · exact .pure _
  · next hl => exact .bind (readHeader_noFault (Nat.not_lt.1 hl)) fun _ _ => .pure _

theorem validate_noFault (s : State) : NoFault (validate s) := by
  refine .bind (header_noFault s) fun _ _ => ?_
  split <;> exact .pure _

theorem computeDims_noFault (s : State) : NoFault (computeDims s) := by
  refine .bind (header_noFault s) fun _ _ => ?_
  split
  · exact .pure _
  · exact error_noFault

theorem enterPalExtract_noFault (s : State) : NoFault (enterPalExtract s) := by
  refine .bind (header_noFault s) fun _ _ => ?_
  split <;> exact .pure _

theorem searchPalette_noFault (s : State) : NoFault (searchPalette s) :=
  .bind (header_noFault s) fun h _ => .bind (findPalette_noFault h s) fun _ _ => .pure _

theorem planFormat_noFault (s : State) (f : Fault) : (planFormat s).run ≠ .fault f := by
  unfold planFormat
  split
  · exact exec_noFault _ _ f
  · next e he => exact operation_noFault ((header_noFault s).error he) f

theorem planBlock_noFault (s : State) (f : Fault) : (planBlock s).run ≠ .fault f := by
  unfold planBlock
  split
  · unfold planPhase
    cases s.phase with
    | init => exact operation_noFault (.ok _) f
    | hdrParse => exact operation_noFault (hdrParse_noFault s) f
    | validate => exact operation_noFault (validate_noFault s) f
    | dims => exact operation_noFault (computeDims_noFault s) f
    | palExtract =>
      cases s.point with
      | enter => exact operation_noFault (enterPalExtract_noFault s) f
      | scan => exact planPass_noFault s f
      | search => exact operation_noFault (searchPalette_noFault s) f
    | formatSelect => exact planFormat_noFault s f
    | decode =>
      cases s.point with
      | enter => exact operation_noFault (.ok _) f
      | scan => exact planPass_noFault s f
      | search => exact planPass_noFault s f
    | finish => exact operation_noFault (.ok _) f
  · exact operation_noFault (.ok _) f

theorem hostGets_noFault (d : Option HostData) (s : State) : NoFault (hostGets d s) := by
  cases d with
  | some v => exact .pure _
  | none => exact error_noFault

theorem planHost_noFault (op : HostOp) (s : State) (f : Fault) : (planHost op s).run ≠ .fault f := by
  cases op with
  | writeFile a b =>
    refine operation_noFault ?_ f
    unfold hostWriteFile
    split
    · exact error_noFault
    · split
      · exact .pure _
      · exact error_noFault
  | writeReg index w =>
    unfold planHost
    dsimp only
    split
    · exact exec_noFault _ _ f
    · refine operation_noFault ?_ f
      unfold hostWriteReg
      split
      · split
        · exact error_noFault
        · split
          · exact .pure _
          · exact error_noFault
      · exact .pure _
  | readReg index =>
    refine operation_noFault ?_ f
    unfold hostReadReg
    split
    · split
      · exact hostGets_noFault _ s
      · exact error_noFault
    · exact hostGets_noFault _ s
  | readPixel y x =>
    refine operation_noFault ?_ f
    unfold hostReadPixel
    split
    · exact error_noFault
    · exact hostGets_noFault _ s

theorem step_noFault (s : State) (f : Fault) : step s ≠ .fault f := by
  unfold step plan
  split
  · exact planHost_noFault _ _ f
  · exact planBlock_noFault _ f

/-- A header beyond the capacities is refused (93 U14). -/
theorem computeDims_refuses {s : State} {h : Header} (hh : s.hdr = some h) (hc : holdsHeader s.params h = false) :
    computeDims s = .error (.refusal .headerExceedsCapacity) := by
  rw [computeDims, header_ok.2 hh]
  show (if holdsHeader s.params h = true then _ else _) = _
  rw [hc]
  rfl

/-- Settles O55: each operation tests an offset against FILE_LEN before it reads there, and DIMS tests both capacities. -/
theorem noStepFaults : Obligations.NoStepFaults := by
  refine ⟨step_noFault, fun s h hq hb hph hh hcap => ?_⟩
  have hfits : holdsHeader s.params h = false := by
    rw [holdsHeader, Bool.and_eq_false_iff, decide_eq_false_iff_not, decide_eq_false_iff_not, Nat.not_le, Nat.not_le]
    exact hcap
  rw [step_dims hq hb hph, computeDims_refuses hh hfits]
  rfl

end Sys2Proof.Machine
end

section
/-! Units, calls and rows as single steps (43_rle_decode.md sections 1 to 4, 44_pixel_assemble.md): what each changes, and which
instruction a step runs. -/

namespace Sys2Proof.Machine

/-! ## Units -/

theorem appended_line_of_dry {s : State} (hs : storing s = false) (i : Instr) : (appended i s).line = s.line :=
  appendUnit_line_of_not_storing hs ..

/-- Settles O5: a unit is one append, whose copies are `storeCopies` from `lineKey P N` on. -/
theorem unitsChangeOnlyTheirCopies : Obligations.UnitsChangeOnlyTheirCopies := by
  intro i s t hi hstep
  obtain rfl := exec_unit_eq hi hstep
  refine ⟨appendUnit_frame .., fun _ => rfl, fun a ha => ?_, fun hs a => by rw [appended_line_of_dry hs]⟩
  cases hs : storing s with
  | false => rw [appended_line_of_dry hs]
  | true => rw [appended, appendUnit_line, if_pos hs, storeCopies_get, if_neg ha]

/-- Settles O6: how far a unit moves CURSOR and N does not depend on PHASE, and the dry run stores nothing. -/
theorem dryRunMovesAsTheRealPass : Obligations.DryRunMovesAsTheRealPass := by
  intro i s h hi hh
  exact ⟨_, _, exec_unit_appends (s := { s with phase := .palExtract }) hi hh,
    exec_unit_appends (s := { s with phase := .decode }) hi hh, rfl, rfl,
    appended_line_of_dry (s := { s with phase := .palExtract }) rfl i, rfl, rfl⟩

/-! ## The end of a call -/

theorem unitDue_false_iff {h : Header} {s : State} :
    unitDue h s = false ↔ h.bytesPerLine.toNat ≤ s.n.toNat ∨ s.fileLen ≤ s.cursor := by
  rw [← Bool.not_eq_true, unitDue_iff, not_and_or, Nat.not_lt, Nat.not_lt]

section
variable (h : Header) (d : Dims) {s : State} (hs : storing s = true)
include hs

/-- The real pass leaves the trimmed length of the call (43_rle_decode.md R183). -/
theorem endCall_length : ∃ l, (endCall h d s).lineLen.get s.p.toNat = some l ∧ l.toNat = min s.n.toNat d.cols.toNat := by
  rw [endCall_real hs]
  refine ⟨_, Memory.get_set_self _ _ _, ?_⟩
  have hn := s.n.isLt
  split
  · next hlt => rw [BitVec.toNat_setWidth, Nat.mod_eq_of_lt (by omega)]; omega
  · omega

theorem endCall_otherLength {q : Nat} (hq : q ≠ s.p.toNat) : (endCall h d s).lineLen.get q = s.lineLen.get q := by
  rw [endCall_real hs]
  exact (Memory.get_set_of_ne _ _ hq).trans (Memory.get_set_of_ne _ _ hq)

theorem endCall_trunc_iff :
    (endCall h d s).status.trunc = true ↔ s.status.trunc = true ∨ s.n.toNat < h.bytesPerLine.toNat := by
  rw [endCall_real hs, nextPlane_status, truncAfter, Bool.or_eq_true, decide_eq_true_iff]

end

/-- Settles O8: the step is `endCall`, which stores the call's results in the real pass alone. -/
theorem callEndsTrimmed : Obligations.CallEndsTrimmed := by
  intro s h d hq hp hin hend
  have hu : unitDue h s = false := unitDue_false_iff.2 (hend.imp Eq.ge Eq.ge)
  refine ⟨_, step_callEnd hq hp hin hu, by rw [endCall_p, toNat_succ_of_lt hin.2], endCall_n h d s, ?_, fun hph => ?_, fun hph => ?_⟩
  · rw [endCall_p, endCall_n]; exact endCall_eta h d s
  · have hs := storing_iff.2 hph
    exact ⟨endCall_length h d hs, fun q => endCall_otherLength h d hs, endCall_trunc_iff h d hs⟩
  · have hs : storing s = false := storing_false.2 (by rw [hph]; decide)
    rw [endCall_dry hs]
    exact ⟨rfl, rfl⟩

/-! ## The truncated RUN -/

/-- At the last byte of the file there is no second byte to fetch. -/
theorem fetchUnit_last {s : State} {b : Byte} (hc : s.cursor + 1 = s.fileLen) (hb : s.file.get s.cursor = some b) :
    fetchUnit s = .ok [b] := by
  rw [fetchUnit, fileByte_ok.2 ⟨by omega, hb⟩]
  exact if_neg fun h => by omega

/-- Settles O7: the run header alone decodes to no unit; at CURSOR = L no unit is due, so the next step ends the call. -/
theorem truncatedRunEndsTheStream : Obligations.TruncatedRunEndsTheStream := by
  intro s h d b hq hp hin hn hc hb hrun
  have hdue : unitDue h s = true := unitDue_iff.2 ⟨hn, by omega⟩
  refine ⟨step_truncated hq hp hin hdue (fetchUnit_last hc hb) (decodeUnit_truncated hrun), fun hph => ?_⟩
  have hp' : InPass h d { s with cursor := s.fileLen } := ⟨hp.busy, hp.hdr, hp.dims, hp.where_⟩
  have hs : storing { s with cursor := s.fileLen } = true := storing_iff.2 hph
  obtain ⟨l, hl, hlen⟩ := endCall_length h d hs
  exact ⟨_, l, step_callEnd hq hp' hin (unitDue_false_iff.2 (.inr le_rfl)), (endCall_trunc_iff h d hs).2 (.inr hn),
    endCall_cursor .., by rw [endCall_p, toNat_succ_of_lt hin.2], endCall_n .., hl, hlen⟩

/-! ## The unit at CURSOR -/

/-- The bytes of a unit at CURSOR are what is fetched there. -/
theorem fetchUnit_of_decodeUnit {s : State} {bytes : List Byte} {i : Instr} (hd : decodeUnit bytes = .ok (i, []))
    (hbytes : ∀ j (hj : j < bytes.length), fileByte s (s.cursor + j) = .ok bytes[j]) : fetchUnit s = .ok bytes := by
  cases bytes with
  | nil => cases hd
  | cons b bs =>
    have hb : fileByte s s.cursor = .ok b := hbytes 0 (Nat.succ_pos _)
    rw [fetchUnit, hb]
    show ite _ _ _ = _
    by_cases hrun : 192 ≤ b.toNat
    · cases bs with
      | nil => rw [decodeUnit_truncated hrun] at hd; cases hd
      | cons v bs =>
        rw [decodeUnit_run hrun] at hd
        cases hd
        have hv : fileByte s (s.cursor + 1) = .ok v := hbytes 1 (Nat.le_refl 2)
        have hlen : unitLength b = 2 := unitLength_two.2 (by rw [isRunHeader_eq, decide_eq_true hrun])
        rw [if_pos ⟨hlen, (fileByte_ok.1 hv).1⟩, hv]
        rfl
    · have hlen : ¬unitLength b = 2 := fun h => hrun (by
        rw [unitLength_two, isRunHeader_eq] at h; exact of_decide_eq_true h)
      obtain ⟨j, hj⟩ : ∃ j, decodeUnit (b :: bs) = .ok (j, bs) := by
        by_cases hlow : b.toNat < 128
        · exact ⟨_, decodeUnit_literalLow hlow bs⟩
        · exact ⟨_, decodeUnit_literalHigh (by omega) (by omega) bs⟩
      rw [hj] at hd
      cases hd
      rw [if_neg fun h => hlen h.1]
      rfl

theorem takeTurn_counts {s : State} {k : Nat} {op : HostOp} {rest : List HostMove}
    (h : s.host = ⟨.after (k + 1), op⟩ :: rest) : takeTurn s = (none, { s with host := ⟨.after k, op⟩ :: rest }) := by
  unfold takeTurn; rw [h]

theorem takeTurn_waits {s : State} {op : HostOp} {rest : List HostMove} (hb : isBusy s = true)
    (h : s.host = ⟨.notBusy, op⟩ :: rest) : takeTurn s = (none, s) := by
  unfold takeTurn; rw [h]; exact if_pos hb

theorem takeTurn_ready {s : State} {op : HostOp} {rest : List HostMove} (hb : isBusy s = false)
    (h : s.host = ⟨.notBusy, op⟩ :: rest) : takeTurn s = (some op, { s with host := rest }) := by
  unfold takeTurn; rw [h]; exact if_neg (by rw [hb]; exact Bool.false_ne_true)

theorem step_of_blockTurn {s u : State} (h : takeTurn s = (none, u)) : step s = (planBlock u).run := by
  unfold step plan; rw [h]

/-- Settles O39: the pass's plan is the unit at CURSOR, and the host's list has no part in it. -/
theorem stepRunsTheUnit : Obligations.StepRunsTheUnit := by
  intro s h d bytes i hp hin hn hlen hbytes hdec
  have hd := decode_unit_ok.1 hdec
  have hread : ∀ j (hj : j < bytes.length), fileByte s (s.cursor + j) = .ok bytes[j] := fun j hj =>
    fileByte_ok.2 ⟨by omega, hbytes j hj⟩
  have hdue : unitDue h s = true := by
    cases bytes with
    | nil => cases hd
    | cons b bs => exact unitDue_iff.2 ⟨hn, (fileByte_ok.1 (hread 0 (Nat.succ_pos _))).1⟩
  have hplan : ∀ q, planBlock { s with host := q } = .instr i { s with host := q } := fun q => by
    have hp' : InPass h d { s with host := q } := ⟨hp.busy, hp.hdr, hp.dims, hp.where_⟩
    rw [planBlock_inPass hp']
    exact planScan_unit hin hdue (fetchUnit_of_decodeUnit hd hread) hd
  refine ⟨fun hq => ?_, fun k op rest hq => ?_, fun op rest hq => ?_⟩
  · rw [step_of_blockTurn (takeTurn_nil hq), show planBlock s = .instr i s from hplan s.host]; rfl
  · rw [step_of_blockTurn (takeTurn_counts hq), hplan]; rfl
  · rw [step_of_blockTurn (takeTurn_waits hp.busy hq), show planBlock s = .instr i s from hplan s.host]; rfl

/-! ## Rows of the format table -/

theorem formatOf_isSome {i : Instr} (hi : isFormatInstr i = true) : ∃ f, formatOf i = some f := by
  cases i with
  | fmtRgb24 p => exact ⟨_, rfl⟩
  | fmtIndexedViaLuma => exact ⟨_, rfl⟩
  | fmtGray8 => exact ⟨_, rfl⟩
  | fmtFallback p np bpp => exact ⟨_, rfl⟩
  | _ => cases hi

theorem formatOf_indexed {i : Instr} (hi : formatOf i = some .indexedViaLuma) : i = .fmtIndexedViaLuma := by
  cases i with
  | fmtIndexedViaLuma => rfl
  | _ => cases hi

/-- Settles O20: a row at its selection is `formatSelected`, which writes LUMA for IndexedViaLuma alone. -/
theorem formatRowsComplete : Obligations.FormatRowsComplete := by
  intro i s hi hp
  obtain ⟨f, hf⟩ := formatOf_isSome hi
  refine ⟨_, f, exec_selects hf hp, hf, ?_, fun hne => ?_, fun a => ?_⟩
  · rw [formatSelected_eq]
  · rw [formatSelected_eq]
    exact if_neg fun h => hne (formatOf_indexed (hf.trans (congrArg some h)))
  · rw [formatSelected_eq]
    exact ⟨rfl, rfl, rfl⟩

/-- Settles O40: both points of the sequence name their row; the one FORMAT names is `formatInstr`. -/
theorem stepRunsTheFormatRow : Obligations.StepRunsTheFormatRow := by
  intro s h hq hb hh
  refine ⟨fun hph => step_selects hq hb hph hh, fun d hph hpt hd hy hpl => ?_⟩
  rw [step_inPass hq ⟨hb, hh, hd, .inr ⟨hph, hpt⟩⟩, planScan_rowBuilt hy hpl hph]
  rfl

/-- INIT apart, only FORMAT_SELECT writes FORMAT. -/
theorem Advance.format {s t : State} (ha : Advance s t) (hi : s.phase ≠ .init) (hf : s.phase ≠ .formatSelect) :
    t.status.format = s.status.format := by
  cases ha with
  | init hph => exact absurd hph hi
  | selected h hph => exact absurd hph hf
  | searched h found => cases found <;> rfl
  | loop h d t hp hl => rw [hl.frame]
  | _ => rfl

/-- From DECODE on the sequence does not go back: the advances not named are made in earlier phases. -/
theorem Advance.stays_past_selection {s t : State} (ha : Advance s t) (hp : s.phase = .decode ∨ s.phase = .finish) :
    t.phase = .decode ∨ t.phase = .finish := by
  cases ha with
  | realPass => exact hp
  | loop h d t hp' hl => rw [hl.frame]; exact hp
  | realPassEnd => exact .inr rfl
  | finished => exact hp
  | _ => simp_all

/-- Settles O19: FORMAT is chosen where the key is decoded, and each row is the one FORMAT names. -/
theorem formatSelectedOnce : Obligations.FormatSelectedOnce := by
  refine ⟨fun s h hq hb hph hh => ?_, fun s t hq hb hi hf hstep => ?_, fun s h d hq hb hph hpt hh hd hy hpl => ?_⟩
  · exact ⟨_, step_formatSelected hq hb hph hh, by rw [formatSelected_eq], by rw [formatSelected_eq]; rfl⟩
  · have ha := step_advance hq hb hstep
    exact ⟨ha.format hi hf, ha.stays_past_selection⟩
  · refine ⟨formatInstr h s, formatOf_formatInstr h s, ?_⟩
    rw [step_inPass hq ⟨hb, hh, hd, .inr ⟨hph, hpt⟩⟩, planScan_rowBuilt hy hpl hph]
    rfl

/-- Every policy but Rgb24's gives greys. -/
theorem rowPixel_grey {i : Instr} (hi : isFormatInstr i = true) (hne : ∀ p, i ≠ .fmtRgb24 p) {s : State} {x : Nat} {e : Rgb}
    (he : rowPixel i s x = some e) : ∃ v, e = grey v := by
  have hgrey : pixelGrey s x = some e → ∃ v, e = grey v := fun h => by
    obtain ⟨v, -, hv⟩ := Option.map_eq_some_iff.1 h
    exact ⟨v, hv.symm⟩
  cases i with
  | fmtRgb24 p => exact absurd rfl (hne p)
  | fmtIndexedViaLuma =>
    cases hb : lineByte s 0 x with
    | none => rw [rowPixel, pixelLuma_of_missing hb] at he; cases he
    | some v =>
      rw [rowPixel, pixelLuma_of_byte hb] at he
      obtain ⟨g, -, hg⟩ := Option.map_eq_some_iff.1 he
      exact ⟨g, hg.symm⟩
  | fmtGray8 => exact hgrey he
  | fmtFallback p np bpp =>
    by_cases hnp : 1 ≤ np.toNat
    · exact hgrey ((pixelFallback_of_plane hnp s x).symm.trans he)
    · rw [rowPixel, pixelFallback_of_noPlane (by omega)] at he; cases he
  | _ => cases hi

/-- Settles O27: a row in the real pass is `rowAssembled`, which writes row Y by `putRow` and moves on to the next scanline. -/
theorem rowsChangeOnlyTheirPixels : Obligations.RowsChangeOnlyTheirPixels := by
  intro i s t hi hph hstep
  have hrow : ∃ d, s.dims = some d ∧ t = rowAssembled i d s := by
    obtain ⟨hne, -⟩ | ⟨-, d, -, hd, -⟩ := exec_format hi hstep
    · exact absurd hph hne
    · exact ⟨d, hd, Host.Outcome.next.inj (hstep.symm.trans (exec_assembles hi hph hd))⟩
  obtain ⟨d, hd, rfl⟩ := hrow
  refine ⟨rfl, fun _ => rfl, fun a d' hd' ha => ?_, fun d' x e hd' hx hne he => ?_⟩
  · obtain rfl : d = d' := Option.some.inj (hd.symm.trans hd')
    exact putRow_get_other _ _ _ _ ha
  · obtain rfl : d = d' := Option.some.inj (hd.symm.trans hd')
    have hpix : rowPixel i s x = some e := Option.some.inj ((putRow_get_row _ _ hx _).symm.trans he)
    obtain ⟨v, rfl⟩ := rowPixel_grey hi hne hpix
    exact ⟨rfl, rfl⟩

/-! ## The luma table -/

theorem lumaSum_le (e : Rgb) : lumaSum e ≤ 255000 := by
  have hr := e.r.isLt
  have hg := e.g.isLt
  have hb := e.b.isLt
  unfold lumaSum
  omega

/-- A rounded sum is at most 255, so it needs no clamp (44_pixel_assemble.md R198). -/
theorem lumaRound_le {tie : Config.LumaTie} {sum : Nat} (h : sum ≤ 255000) : lumaRound tie sum ≤ 255 := by
  unfold lumaRound
  cases tie
  · dsimp only
    omega
  · dsimp only
    split <;> omega

theorem lumaOf_toNat (tie : Config.LumaTie) (e : Rgb) : (lumaOf tie e).toNat = lumaRound tie (lumaSum e) := by
  have hle := lumaRound_le (tie := tie) (lumaSum_le e)
  rw [lumaOf, BitVec.toNat_ofNat, Nat.mod_eq_of_lt (by omega)]

/-- Off the halves both conventions round alike. -/
theorem lumaRound_off_half {sum : Nat} (h : sum % 1000 ≠ 500) (tie : Config.LumaTie) :
    lumaRound tie sum = lumaRound .halfUp sum := by
  cases tie
  · rfl
  · exact if_neg fun hhalf => h hhalf.1

theorem lumaSum_grey (v : Byte) : lumaSum (grey v) = 1000 * v.toNat := by
  show 299 * v.toNat + 587 * v.toNat + 114 * v.toNat = _
  omega

theorem lumaOf_grey (tie : Config.LumaTie) (v : Byte) : lumaOf tie (grey v) = v := by
  apply BitVec.eq_of_toNat_eq
  rw [lumaOf_toNat, lumaSum_grey, lumaRound_off_half (by omega)]
  show (1000 * v.toNat + 500) / 1000 = _
  omega

/-- Half to even, told by quotient and remainder. -/
theorem lumaRound_halfEven (sum : Nat) : lumaRound .halfEven sum =
    if 500 < sum % 1000 ∨ (sum % 1000 = 500 ∧ sum / 1000 % 2 = 1) then sum / 1000 + 1 else sum / 1000 := by
  rw [lumaRound]
  split <;> split <;> omega

/-- Settles O22: S is at most 255 * 1000, and for a grey of value v it is 1000 v. -/
theorem lumaNeedsNoClamp : Obligations.LumaNeedsNoClamp := by
  intro tie e
  refine ⟨lumaSum_le e, lumaOf_toNat tie e, fun v he => he ▸ lumaOf_grey tie v, fun hhalf => ?_⟩
  rw [lumaOf, lumaOf, lumaRound_off_half hhalf]

/-- Settles O21: LUMA_BUILD maps `lumaOf` over PAL, whose value is the rounded sum under either convention. -/
theorem lumaTableBuilt : Obligations.LumaTableBuilt := by
  intro s hp hlen
  refine ⟨formatSelected .indexedViaLuma s, exec_selects rfl hp, rfl, rfl, (List.length_map _).trans hlen, fun i hi => ?_⟩
  have hentry : s.pal[i]? = some s.pal[i] := List.getElem?_eq_getElem (by omega)
  refine ⟨_, lumaOf s.params.lumaTie s.pal[i], hentry, ?_, fun htie => ?_, fun htie => ?_⟩
  · show (s.pal.map (lumaOf s.params.lumaTie))[i]? = _
    rw [List.getElem?_map, hentry]
    rfl
  · rw [lumaOf_toNat, htie]; rfl
  · rw [lumaOf_toNat, htie, lumaRound_halfEven]; rfl

end Sys2Proof.Machine
end

section
/-! The sequence around the passes (40_sequencer_host_commands.md section 2, 60_exceptions.md section 2, 42_palette_extract.md). -/

namespace Sys2Proof.Machine

/-! ## INIT -/

/-- Settles O29: INIT writes every field but the ones named, and keeps of STATUS only STATE. -/
theorem initForgetsThePast : Obligations.InitForgetsThePast := by
  intro a b s t hqa hqb hba hbb hpa hpb hparams hfile hlen hsa hsb
  rw [step_init hqa hba hpa] at hsa
  rw [step_init hqb hbb hpb] at hsb
  cases hsa
  cases hsb
  have hstatus : b.status.cleared = a.status.cleared := by
    rw [Status.cleared, Status.cleared, isBusy_iff.1 hba, isBusy_iff.1 hbb]
  rw [initDecode, initDecode, hstatus, goPhase, goPhase, hparams, hfile, hlen, hqa, hqb]

/-! ## The fatal errors -/

/-- Settles O33: of all the block's steps only the two that raise an error leave STATE in ERROR. -/
theorem fatalErrorWithdrawsResults : Obligations.FatalErrorWithdrawsResults := by
  intro s t hq hb hstep herr
  have hbusy : s.status.state ≠ .error := by rw [isBusy_iff.1 hb]; decide
  cases step_advance hq hb hstep with
  | tooShort hph => exact ⟨.inl ⟨hph, rfl⟩, rfl, rfl, rfl, rfl, rfl, rfl, fun _ => rfl⟩
  | rejected hph => exact ⟨.inr ⟨hph, rfl⟩, rfl, rfl, rfl, rfl, rfl, rfl, fun _ => rfl⟩
  | finished => cases herr
  | searched h found => cases found <;> exact absurd herr hbusy
  | selected h => rw [formatSelected_eq] at herr; exact absurd herr hbusy
  | loop h d t hp hl => rw [hl.frame] at herr; exact absurd herr hbusy
  | _ => exact absurd herr hbusy

/-! ## The dry run and the palette -/

/-- Settles O35: each clause is one step of the sequence at its place. -/
theorem dryRunOnlyPastTheGate : Obligations.DryRunOnlyPastTheGate := by
  intro s hq hb
  refine ⟨fun h hph hh => ⟨fun hpt hv => ?_, fun hpt hv => ?_, fun d hpt hd hy => ?_⟩, step_realPass hq hb⟩
  · exact step_dryRun hq hb hph hpt hh (versionGate_iff.2 hv)
  · exact step_noDryRun hq hb hph hpt hh (Bool.eq_false_iff.2 (mt versionGate_iff.1 (by omega)))
  · have hend : endPass s = closeDryRun s := if_neg (mt storing_iff.1 (by rw [hph]; decide))
    rw [step_passEnd hq ⟨hb, hh, hd, .inl ⟨hph, hpt⟩⟩ hy, hend]
    rfl

/-- A file of 768 bytes leaves none of S1 to S4 without its table: S4 has no other condition (42_palette_extract.md R160). -/
theorem paletteChoice_of_long (f : Nat → Byte) {len : Nat} (e : Nat) (hl : 768 ≤ len) :
    ∃ c, paletteChoice f len e = some c ∧ c.1 ≠ .absent ∧ c.1 ≠ .s5 := by
  unfold paletteChoice
  split_ifs
  · exact ⟨_, rfl, nofun, nofun⟩
  · exact ⟨_, rfl, nofun, nofun⟩
  · exact ⟨_, rfl, nofun, nofun⟩
  · exact ⟨_, rfl, nofun, nofun⟩

/-- The bytes of a written file as a function. -/
def byteOf (s : State) (a : Nat) : Byte := (s.file.get a).getD 0

theorem fileByte_byteOf {s : State} (hw : FileWritten s) {a : Nat} (ha : a < s.fileLen) : fileByte s a = .ok (byteOf s a) := by
  obtain ⟨b, hb⟩ := Option.isSome_iff_exists.1 (hw a ha)
  rw [fileByte_ok, byteOf, hb]
  exact ⟨ha, rfl⟩

/-- Settles O37: one of S1 to S4 succeeds, so the search records its 256 entries, and the key of one plane of 8 bits with a palette is
IndexedViaLuma's. -/
theorem longVersionFiveFileHasPalette : Obligations.LongVersionFiveFileHasPalette := by
  intro s h hq hb hph hpt hh hbd hw hv hl
  obtain ⟨e, he⟩ := Option.isSome_iff_exists.1 hbd
  obtain ⟨c, hc, habsent, hs5⟩ := paletteChoice_of_long (byteOf s) e hl
  have hchoice : gatedChoice h (byteOf s) s.fileLen e = some c := (if_pos hv).trans hc
  have hfound := findPalette_eq (fun a ha => fileByte_byteOf hw ha) (fun _ => he) (h := h)
  rw [hchoice] at hfound
  refine ⟨_, _, step_searched hq hb hph hpt hh hfound, rfl, gatedChoice_count hchoice, triplesAt_length _ _ 256, habsent, hs5,
    step_formatSelected hq hb rfl hh, fun hnp hbpp => ?_⟩
  rw [formatSelected_eq]
  show chosenFormat true h = _
  rw [chosenFormat, if_neg (by omega), if_pos ⟨hnp, hbpp, rfl⟩]

/-! ## FILE is the host's -/

/-- No instruction writes FILE. -/
theorem exec_file {i : Instr} {s t : State} (h : exec i s = .next t) : t.file = s.file := by
  have format : isFormatInstr i = true → t.file = s.file := fun hi => by
    rcases exec_format hi h with ⟨-, f, rfl | rfl⟩ | ⟨-, d, px, -, rfl⟩ <;> rfl
  cases i with
  | literalLow v => rw [exec_unit_eq rfl h]; rfl
  | literalHigh v => rw [exec_unit_eq rfl h]; rfl
  | run c v => rw [exec_unit_eq rfl h]; rfl
  | fmtRgb24 p => exact format rfl
  | fmtIndexedViaLuma => exact format rfl
  | fmtGray8 => exact format rfl
  | fmtFallback p np bpp => exact format rfl
  | start ig =>
    simp only [exec, execStart] at h
    split at h <;> cases h <;> rfl
  | reset st ig => cases h; rfl
  | ctrlNop ig => cases h; rfl

/-- Settles O48: the frame of the block's steps, and of each instruction. -/
theorem blockNeverWritesTheFile : Obligations.BlockNeverWritesTheFile := by
  refine ⟨fun s t hturn hstep => ?_, fun i s t hstep a => by rw [exec_file hstep]⟩
  have hturn' : takeTurn s = (none, { s with host := (takeTurn s).2.host }) := Prod.ext hturn (takeTurn_state s)
  rw [step_of_blockTurn hturn'] at hstep
  rcases (planBlock_next hstep).advance with ⟨-, rfl⟩ | ⟨-, ha⟩
  · exact ⟨rfl, fun _ => rfl⟩
  · obtain ⟨-, hlen, hfile, -, -⟩ := ha.frame
    exact ⟨hlen, fun a => by rw [hfile]⟩

end Sys2Proof.Machine
end

section
/-! The host's side (10_state.md sections 2 to 11, 40_sequencer_host_commands.md section 1): the words it reads, and what each of its
moves does. -/

namespace Sys2Proof.Machine

/-! ## Words as numbers -/

theorem append_toNat {m n : Nat} (x : BitVec m) (y : BitVec n) : (x ++ y).toNat = x.toNat * 2 ^ n + y.toNat := by
  rw [BitVec.toNat_append, ← Nat.shiftLeft_add_eq_or_of_lt y.isLt, Nat.shiftLeft_eq]

/-- The word `{R, G, B}` (10_state.md R28). -/
theorem rgbWord_toNat (e : Rgb) : (rgbWord e).toNat = 65536 * e.r.toNat + 256 * e.g.toNat + e.b.toNat := by
  rw [rgbWord, append_toNat, append_toNat]
  omega

/-- The STATUS word as a sum, each field times its place (10_state.md R26). -/
theorem Status.word_toNat (t : Status) : t.word.toNat =
    4096 * t.palSrc.code.toNat + 1024 * t.format.code.toNat + 512 * t.boundaryValid.toNat + 256 * t.dimBad.toNat +
      128 * t.trunc.toNat + 64 * t.imgValid.toNat + 32 * t.palPresent.toNat + 16 * t.hdrValid.toNat + 4 * t.err.code.toNat +
      t.state.code.toNat := by
  simp only [Status.word, append_toNat, BitVec.toNat_ofBool]
  simp
  omega

theorem getLsbD_of_toNat {w k : Nat} {x : BitVec w} {b : Bool} (h : x.toNat / 2 ^ k % 2 = b.toNat) : x.getLsbD k = b := by
  rw [BitVec.getLsbD, Nat.testBit_eq_decide_div_mod_eq, h]
  cases b <;> rfl

theorem extractLsb'_of_toNat {w lo len v : Nat} {x : BitVec w} (h : x.toNat / 2 ^ lo % 2 ^ len = v) :
    (x.extractLsb' lo len).toNat = v := by
  rw [BitVec.extractLsb'_toNat, Nat.shiftRight_eq_div_pow, h]

/-- Settles O43: the word's sum, divided by each field's place. -/
theorem statusFieldsAtTheirBits : Obligations.StatusFieldsAtTheirBits := by
  intro t
  have hword := t.word_toNat
  have hstate := t.state.code.isLt
  have herr := t.err.code.isLt
  have hfmt := t.format.code.isLt
  have hsrc := t.palSrc.code.isLt
  have h1 := t.hdrValid.toNat_le
  have h2 := t.palPresent.toNat_le
  have h3 := t.imgValid.toNat_le
  have h4 := t.trunc.toNat_le
  have h5 := t.dimBad.toNat_le
  have h6 := t.boundaryValid.toNat_le
  have state : t.state.code.toNat = match t.state with
    | .idle => 0
    | .busy => 1
    | .done => 2
    | .error => 3 := by cases t.state <;> rfl
  have err : t.err.code.toNat = match t.err with
    | .noError => 0
    | .invalidHeader => 1
    | .notAPcxFile => 2 := by cases t.err <;> rfl
  have format : t.format.code.toNat = match t.format with
    | .rgb24 => 0
    | .indexedViaLuma => 1
    | .gray8 => 2
    | .fallback => 3 := by cases t.format <;> rfl
  have palSrc : t.palSrc.code.toNat = match t.palSrc with
    | .absent => 0
    | .s1 => 1
    | .s2 => 2
    | .s3 => 3
    | .s4 => 4
    | .s5 => 5 := by cases t.palSrc <;> rfl
  refine ⟨?_, ?_, ?_, ?_, ?_, ?_, ?_, ?_, ?_, ?_, ?_⟩
  · exact (extractLsb'_of_toNat (by omega)).trans state
  · exact (extractLsb'_of_toNat (by omega)).trans err
  · exact getLsbD_of_toNat (by omega)
  · exact getLsbD_of_toNat (by omega)
  · exact getLsbD_of_toNat (by omega)
  · exact getLsbD_of_toNat (by omega)
  · exact getLsbD_of_toNat (by omega)
  · exact getLsbD_of_toNat (by omega)
  · exact (extractLsb'_of_toNat (by omega)).trans format
  · exact (extractLsb'_of_toNat (by omega)).trans palSrc
  · exact BitVec.eq_of_toNat_eq (extractLsb'_of_toNat (by rw [hword]; simp; omega))

/-! ## The register map -/

/-- The windows of the register map, from the header's registers on (10_state.md R22). -/
theorem registerWord_of_ge {s : State} {k : Nat} (hk : 10 ≤ k) : registerWord s k =
    if 16 ≤ k ∧ k ≤ 30 then s.hdr.bind (fun h => headerWord h k)
    else if 32 ≤ k ∧ k ≤ 47 then s.hdr.bind (fun h => tripleWord h.hpal (k - 32))
    else if 256 ≤ k ∧ k ≤ 511 then tripleWord s.pal (k - 256)
    else none := by
  unfold registerWord
  iterate 10 rw [if_neg (by omega)]

theorem registerWord_unassigned {s : State} {k : Nat} (hk : (10 ≤ k ∧ k ≤ 15) ∨ k = 31 ∨ (48 ≤ k ∧ k ≤ 255) ∨ 512 ≤ k) :
    registerWord s k = none := by
  rw [registerWord_of_ge (by omega), if_neg (by omega), if_neg (by omega), if_neg (by omega)]

theorem registerWord_header {s : State} {h : Header} (hh : s.hdr = some h) {k : Nat} (hk : 16 ≤ k ∧ k ≤ 30) :
    registerWord s k = headerWord h k := by
  rw [registerWord_of_ge (by omega), if_pos hk, hh]; rfl

theorem registerWord_hpal {s : State} {h : Header} (hh : s.hdr = some h) {i : Nat} (hi : i < 16) :
    registerWord s (32 + i) = tripleWord h.hpal i := by
  rw [registerWord_of_ge (by omega), if_neg (by omega), if_pos (by omega), hh, Nat.add_sub_cancel_left]; rfl

theorem registerWord_pal {s : State} {i : Nat} (hi : i < 256) : registerWord s (256 + i) = tripleWord s.pal i := by
  rw [registerWord_of_ge (by omega), if_neg (by omega), if_neg (by omega), if_pos (by omega), Nat.add_sub_cancel_left]

theorem registerWord_noHeader {s : State} (hh : s.hdr = none) {k : Nat} (hk : (16 ≤ k ∧ k ≤ 30) ∨ (32 ≤ k ∧ k ≤ 47)) :
    registerWord s k = none := by
  rw [registerWord_of_ge (by omega), hh]
  split
  · rfl
  · rw [if_pos (by omega)]; rfl

theorem registerWord_noDims {s : State} (hd : s.dims = none) {k : Nat} (h5 : 5 ≤ k) (h8 : k ≤ 8) : registerWord s k = none := by
  interval_cases k <;> simp [registerWord, hd]

theorem offsetWord_some {a : Nat} (h : a < 2 ^ 32) : ∃ w, offsetWord a = some w ∧ w.toNat = a :=
  ⟨_, if_pos h, by rw [BitVec.toNat_ofNat, Nat.mod_eq_of_lt h]⟩

theorem tripleWord_some {ts : List Rgb} {i : Nat} {e : Rgb} (h : ts[i]? = some e) :
    ∃ w, tripleWord ts i = some w ∧ w.toNat = 65536 * e.r.toNat + 256 * e.g.toNat + e.b.toNat := by
  refine ⟨(rgbWord e).setWidth 32, by rw [tripleWord, h]; rfl, ?_⟩
  rw [BitVec.toNat_setWidth_of_le (by decide), rgbWord_toNat]

theorem tripleWord_none {ts : List Rgb} {i : Nat} (h : ts[i]? = none) : tripleWord ts i = none := by
  rw [tripleWord, h]; rfl

/-- Settles O44: each index falls into one window of the map, and each register's word is its value widened. -/
theorem registersReadExtended : Obligations.RegistersReadExtended := by
  intro s
  have wide : ∀ {n} (v : BitVec n), n ≤ 32 → (v.setWidth 32).toNat = v.toNat := fun v hn => BitVec.toNat_setWidth_of_le hn
  refine ⟨rfl, rfl, offsetWord_some, offsetWord_some, fun e he hlt => ?boundary, fun hbd => ?noBoundary, fun d hd => ?dims,
    fun hd k => registerWord_noDims hd, ⟨_, rfl, wide _ (by decide)⟩, fun h hh => ⟨?header, fun i e hi he => ?hpal⟩,
    fun hh k => registerWord_noHeader hh, fun i hi => ⟨fun e he => ?pal, fun he => ?noPal⟩, fun k => registerWord_unassigned⟩
  case boundary =>
    obtain ⟨w, hw, hval⟩ := offsetWord_some hlt
    exact ⟨w, (congrArg (Option.bind · offsetWord) he).trans hw, hval⟩
  case noBoundary => exact congrArg (Option.bind · offsetWord) hbd
  case dims =>
    have read : ∀ g : Dims → Word, s.dims.map g = some (g d) := fun g => by rw [hd]; rfl
    exact ⟨⟨_, read _, BitVec.toInt_signExtend_of_le (by decide)⟩, ⟨_, read _, BitVec.toInt_signExtend_of_le (by decide)⟩,
      ⟨_, read _, wide _ (by decide)⟩, ⟨_, read _, wide _ (by decide)⟩⟩
  case header =>
    have field : ∀ {k n} (v : BitVec n), 16 ≤ k ∧ k ≤ 30 → n ≤ 32 → headerWord h k = some (v.setWidth 32) →
        ∃ w, registerWord s k = some w ∧ w.toNat = v.toNat := fun v hk hn hword =>
      ⟨_, (registerWord_header hh hk).trans hword, wide v hn⟩
    simp only [List.forall_mem_cons]
    exact ⟨field h.manufacturer (by decide) (by decide) rfl, field h.version (by decide) (by decide) rfl,
      field h.encoding (by decide) (by decide) rfl, field h.bpp (by decide) (by decide) rfl,
      field h.xmin (by decide) (by decide) rfl, field h.ymin (by decide) (by decide) rfl,
      field h.xmax (by decide) (by decide) rfl, field h.ymax (by decide) (by decide) rfl,
      field h.hdpi (by decide) (by decide) rfl, field h.vdpi (by decide) (by decide) rfl,
      field h.numPlanes (by decide) (by decide) rfl, field h.bytesPerLine (by decide) (by decide) rfl,
      field h.paletteInfo (by decide) (by decide) rfl, field h.hscreen (by decide) (by decide) rfl,
      field h.vscreen (by decide) (by decide) rfl, nofun⟩
  case hpal => rw [registerWord_hpal hh hi]; exact tripleWord_some he
  case pal => rw [registerWord_pal hi]; exact tripleWord_some he
  case noPal => rw [registerWord_pal hi]; exact tripleWord_none he

/-- Settles O1: at reset the map's named values are the first ten registers', and every memory and table is empty. -/
theorem resetGivesOnlyTheNamedValues : Obligations.ResetGivesOnlyTheNamedValues := by
  refine ⟨fun k => ?_, fun _ _ => rfl, fun _ => ⟨rfl, rfl⟩, fun _ => ⟨rfl, rfl, rfl⟩⟩
  by_cases hk : k < 10
  · interval_cases k <;> rfl
  · rw [if_neg (by omega), if_neg (by omega), registerWord_of_ge (by omega)]
    split_ifs <;> rfl

/-! ## Commands -/

/-- Settles O15: outside BUSY START is `beginDecode`. -/
theorem startBeginsADecode : Obligations.StartBeginsADecode := fun _ s =>
  ⟨fun h => ⟨beginDecode s, if_neg h, rfl, rfl, rfl, fun _ => rfl⟩, fun h => if_pos h⟩

/-- Settles O17, by the two low bits. -/
theorem noCommandChangesNothing : Obligations.NoCommandChangesNothing := fun ignored s =>
  ⟨exec_ctrlNop ignored s, fun _ hw => ⟨_, decodeCtrl_ctrlNop hw⟩⟩

/-- Settles O41: a due move is taken at once, and one that waits for the block outside BUSY. -/
theorem stepRunsTheCommand : Obligations.StepRunsTheCommand := by
  intro s w i rest hdec
  have hi : decodeCtrl w = i := Except.ok.inj hdec
  refine ⟨fun hq => by rw [step_ctrlWrite hq, hi], fun hb hq => ?_⟩
  rw [step, plan, takeTurn_ready hb hq, ← hi]
  rfl

/-- Settles O42: outside BUSY the block's plan is the state as it is. -/
theorem blockRestsOutsideBusy : Obligations.BlockRestsOutsideBusy := fun s hb hq => by
  rw [step_block hq, planBlock, hb]; rfl

/-! ## Reads -/

theorem step_readReg {s : State} {k : Nat} {rest : List HostMove} (hq : s.host = ⟨.after 0, .readReg k⟩ :: rest) :
    step s = outcomeOf (hostReadReg k { s with host := rest }) := step_hostDue hq

theorem step_readPixel {s : State} {y x : Nat} {rest : List HostMove} (hq : s.host = ⟨.after 0, .readPixel y x⟩ :: rest) :
    step s = outcomeOf (hostReadPixel y x { s with host := rest }) := step_hostDue hq

/-- Outside BUSY a register read gives what the map gives; the host's list has no part in it. -/
theorem step_readReg_of_not_busy {s : State} {k : Nat} {rest : List HostMove} (hb : isBusy s = false)
    (hq : s.host = ⟨.after 0, .readReg k⟩ :: rest) :
    step s = outcomeOf (hostGets ((registerWord s k).map .word) { s with host := rest }) := by
  have hbusy : isBusy { s with host := rest } = false := hb
  rw [step_readReg hq, hostReadReg, hbusy]
  rfl

/-- Outside BUSY a pixel read gives what the port gives. -/
theorem step_readPixel_of_not_busy {s : State} {y x : Nat} {rest : List HostMove} (hb : isBusy s = false)
    (hq : s.host = ⟨.after 0, .readPixel y x⟩ :: rest) :
    step s = outcomeOf (hostGets ((pixelPort s y x).map .pixel) { s with host := rest }) := by
  have hbusy : isBusy { s with host := rest } = false := hb
  rw [step_readPixel hq, hostReadPixel, hbusy]
  rfl

/-- Settles O45: outside BUSY the read gives the register's word, if it has one. -/
theorem hostReadsAValueOrIsRefused : Obligations.HostReadsAValueOrIsRefused := by
  intro s k rest hb hq
  rw [step_readReg_of_not_busy hb hq]
  exact ⟨fun w hw => by rw [hw]; rfl, fun hw => by rw [hw]; rfl⟩

theorem pixelPort_inside {s : State} {d : Dims} {y x : Nat} (hd : s.dims = some d) (hv : s.status.imgValid = true)
    (hy : y < d.rows.toNat) (hx : x < d.cols.toNat) : pixelPort s y x = (s.pix.get (pixKey y x)).map (Option.map rgbWord) := by
  rw [pixelPort, hd]
  exact if_pos ⟨hv, hy, hx⟩

theorem pixelPort_invalid {s : State} (hv : s.status.imgValid = false) (y x : Nat) : pixelPort s y x = none := by
  rw [pixelPort]
  cases s.dims with
  | none => rfl
  | some d => exact if_neg fun h => by rw [hv] at h; cases h.1

theorem pixelPort_outside {s : State} {d : Dims} {y x : Nat} (hd : s.dims = some d) (h : d.rows.toNat ≤ y ∨ d.cols.toNat ≤ x) :
    pixelPort s y x = none := by
  rw [pixelPort, hd]
  exact if_neg fun h' => by omega

/-- Settles O46: the port gives the pixel's word inside a valid image, and nothing elsewhere. -/
theorem pixelPortReads : Obligations.PixelPortReads := by
  intro s y x rest hb hq
  rw [step_readPixel_of_not_busy hb hq]
  refine ⟨fun d hd hv hy hx => ⟨fun e he => ⟨rgbWord e, rgbWord_toNat e, ?_⟩, fun he => ?_⟩, fun hv => ?_, fun d hd hout => ?_⟩
  · rw [pixelPort_inside hd hv hy hx, he]; rfl
  · rw [pixelPort_inside hd hv hy hx, he]; rfl
  · rw [pixelPort_invalid hv]; rfl
  · rw [pixelPort_outside hd hout]; rfl

/-! ## Moves while BUSY, and writes -/

theorem planHost_writeReg {k : Nat} (hk : k ≠ 0) (w : Word) (s : State) :
    planHost (.writeReg k w) s = .operation (hostWriteReg k w s) := if_neg hk

/-- Settles O47: each move tests BUSY first. -/
theorem busyHostMayReadOnlyState : Obligations.BusyHostMayReadOnlyState := by
  intro s rest hb
  have hbusy : isBusy { s with host := rest } = true := hb
  refine ⟨fun hq => ?_, fun k hk hq => ?_, fun y x hq => ?_, fun a b hq => ?_, fun w hq => ?_⟩
  · rw [step_readReg hq, hostReadReg, hbusy]; rfl
  · rw [step_readReg hq, hostReadReg, hbusy, if_pos rfl, if_neg hk]; rfl
  · rw [step_readPixel hq, hostReadPixel, hbusy]; rfl
  · rw [step_hostDue hq, planHost, hostWriteFile, hbusy]; rfl
  · rw [step_hostDue hq, planHost_writeReg (by decide), hostWriteReg, hbusy]; rfl

theorem hostWriteFile_fits {s : State} (hb : isBusy s = false) {a : Nat} (ha : a < 2 ^ s.params.addrW) (b : Byte) :
    hostWriteFile a b s = .ok { s with file := s.file.set a b } := by
  rw [hostWriteFile, hb, Config.Params.holdsOffset, decide_eq_true ha]; rfl

theorem hostWriteFile_tooLong {s : State} (hb : isBusy s = false) {a : Nat} (ha : 2 ^ s.params.addrW ≤ a) (b : Byte) :
    hostWriteFile a b s = .error (.refusal .hostFileTooLong) := by
  rw [hostWriteFile, hb, Config.Params.holdsOffset, decide_eq_false (Nat.not_lt.2 ha)]; rfl

theorem hostWriteLen_fits {s : State} (hb : isBusy s = false) {w : Word} (hw : w.toNat < 2 ^ s.params.addrW) :
    hostWriteReg 2 w s = .ok { s with fileLen := w.toNat } := by
  rw [hostWriteReg, hb, Config.Params.holdsOffset, decide_eq_true hw]; rfl

theorem hostWriteLen_tooLong {s : State} (hb : isBusy s = false) {w : Word} (hw : 2 ^ s.params.addrW ≤ w.toNat) :
    hostWriteReg 2 w s = .error (.refusal .hostFileTooLong) := by
  rw [hostWriteReg, hb, Config.Params.holdsOffset, decide_eq_false (Nat.not_lt.2 hw)]; rfl

/-- The host's moves but a command change FILE, FILE_LEN and what was read last. -/
theorem planHost_frame {op : HostOp} {s t : State} (hop : ∀ w, op ≠ .writeReg 0 w) (h : (planHost op s).run = .next t) :
    t = { s with fileLen := t.fileLen, file := t.file, rdata := t.rdata } := by
  have read : ∀ {d}, hostGets d s = .ok t → t = { s with fileLen := t.fileLen, file := t.file, rdata := t.rdata } := fun h => by
    obtain ⟨v, -, rfl⟩ := hostGets_ok h
    rfl
  cases op with
  | writeFile a b =>
    simp only [planHost, operation_next, hostWriteFile] at h
    split_ifs at h
    cases h
    rfl
  | writeReg k w =>
    have hk : k ≠ 0 := fun hk => hop w (by rw [hk])
    simp only [planHost_writeReg hk, operation_next, hostWriteReg] at h
    split_ifs at h <;> cases h <;> rfl
  | readReg k =>
    simp only [planHost, operation_next, hostReadReg] at h
    split_ifs at h
    · exact read h
    · exact read h
  | readPixel y x =>
    simp only [planHost, operation_next, hostReadPixel] at h
    split_ifs at h
    exact read h

/-- Settles O49: outside BUSY the block rests, and of the host's moves only a command touches a result. -/
theorem resultsStayUntilACommand : Obligations.ResultsStayUntilACommand := by
  intro s
  refine ⟨fun hb => ⟨fun t hop hstep => ?stable, fun a b rest hq => ?file, fun w rest hq => ?len⟩, fun k w rest hq h0 h2 => ?other⟩
  case stable =>
    have hturn := takeTurn_state s
    unfold step plan at hstep
    generalize takeTurn s = turn at hop hstep hturn
    obtain ⟨op, u⟩ := turn
    dsimp only at hop hstep hturn
    cases op with
    | none =>
      have hrest : (planBlock u).run = .next u := by
        rw [planBlock, show isBusy u = false by rw [hturn]; exact hb]; rfl
      obtain rfl : u = t := Host.Outcome.next.inj (hrest.symm.trans hstep)
      rw [hturn]
    | some op =>
      rw [planHost_frame (fun w hw => hop w (congrArg some hw)) hstep, hturn]
  case file =>
    rw [step_hostDue hq, planHost]
    refine ⟨fun ha => ⟨{ s with host := rest, file := s.file.set a b }, ?_, rfl, Memory.get_set_self s.file a b,
      fun c hc => Memory.get_set_of_ne s.file b hc⟩, fun ha => ?_⟩
    · rw [hostWriteFile_fits (s := { s with host := rest }) hb ha]; rfl
    · rw [hostWriteFile_tooLong (s := { s with host := rest }) hb ha]; rfl
  case len =>
    rw [step_hostDue hq, planHost_writeReg (by decide)]
    refine ⟨fun hw => ?_, fun hw => ?_⟩
    · rw [hostWriteLen_fits (s := { s with host := rest }) hb hw]; rfl
    · rw [hostWriteLen_tooLong (s := { s with host := rest }) hb hw]; rfl
  case other =>
    rw [step_hostDue hq, planHost_writeReg h0, hostWriteReg, if_neg h2]
    rfl

end Sys2Proof.Machine
end
